-- ==== Sys2Proof/Word.lean ====
section
/-! DEFINITION. The word types of the engine and nothing else. -/

namespace Sys2Proof

/-- A byte: 8 bits (R12). -/
abbrev Byte := BitVec 8

/-- A 4-bit half of a byte (R12, Glossary "Nibble"). -/
abbrev Nibble := BitVec 4

/-- A command word or a word of the host register space: 32 bits (R41, R100). -/
abbrev Word := BitVec 32

/-- A modular-exponentiation operand: OPW = 1024 bits (R7, R27). -/
abbrev BigWord := BitVec 1024

end Sys2Proof
end

