-- ==== Sys2Proof/Syntax.lean ====
section
/-! DEFINITION. The command set: one constructor per row of spec/opcode_table.json (R104 of 30_encoding.md). -/

namespace Sys2Proof

/-- A command. `rd` is the 5-bit slot number, the 16-bit operand is `imm` under the name the table gives it (R100, R102). -/
inductive Instr where
  | nop
  | clr
  | run
  | chklen
  | verdet
  | ldkey (cls : BitVec 16)
  | ldblk (k : BitVec 16)
  | modexp
  | append
  | decblk (k : BitVec 16)
  | assemble
  | seek
  | rdstrs (rd : BitVec 5) (count : BitVec 16)
  | rdstr (rd : BitVec 5)
  | rdopt (rd : BitVec 5)
  | rdraw (rd : BitVec 5) (n : BitVec 16)
  | rddec2 (rd : BitVec 5)
  | skip (n : BitVec 16)
  | nqload
  | dateg (rd : BitVec 5)
  | datel (rd : BitVec 5) (count : BitVec 16)
  | code (rd : BitVec 5) (width : BitVec 16)
  | gender (rd : BitVec 5)
  deriving DecidableEq, Repr

/-- Pseudo-instruction `RDCODE rd` (R110). -/
def Instr.rdcode (rd : BitVec 5) : Instr := .code rd 2#16

/-- Pseudo-instruction `RDBYTE rd` (R110). -/
def Instr.rdbyte (rd : BitVec 5) : Instr := .rdraw rd 1#16

/-- Pseudo-instruction `DECODE` (R110). -/
def Instr.decodeAll : Instr := .run

end Sys2Proof
end

