-- ==== Sys2Proof/WellFormed.lean ====
section
/-! DEFINITION. The operand ranges checked at acceptance (R107 of 30_encoding.md, step 4 of R103). -/

namespace Sys2Proof

/-- The condition for legality of a command's operands (R107). -/
def Instr.wellFormed : Instr → Bool
  | .nop => true
  | .clr => true
  | .run => true
  | .chklen => true
  | .verdet => true
  | .ldkey cls => cls.toNat ≤ 1
  | .ldblk k => k.toNat ≤ 5
  | .modexp => true
  | .append => true
  | .decblk k => k.toNat ≤ 5
  | .assemble => true
  | .seek => true
  | .rdstrs rd count => rd.toNat + count.toNat ≤ 32
  | .rdstr _ => true
  | .rdopt _ => true
  | .rdraw _ _ => true
  | .rddec2 _ => true
  | .skip _ => true
  | .nqload => true
  | .dateg _ => true
  | .datel rd count => rd.toNat + count.toNat ≤ 32
  | .code _ width => width.toNat ≤ 768
  | .gender _ => true

end Sys2Proof
end

