-- ==== Sys2Proof/Decode.lean ====
section
/-! DEFINITION. Command words: the decoder (step 3 of R103), then the encoder, both from R100, R101 and R104 of
30_encoding.md. Operand ranges are not the decoder's business (step 4, WellFormed). -/

namespace Sys2Proof

/-- Why a word selects no row: its opcode is reserved (R105), or its opcode is a row's but a bit the format requires to be 0
is 1 (R106). -/
inductive DecodeError where
  | reservedOpcode
  | reservedField
  deriving DecidableEq, Repr

/-- op = w[31:24] (R100). -/
def opField (w : Word) : Byte := w.extractLsb' 24 8

/-- z = w[23:21], reserved (R100). -/
def zField (w : Word) : BitVec 3 := w.extractLsb' 21 3

/-- rd = w[20:16] (R100, R102). -/
def rdField (w : Word) : BitVec 5 := w.extractLsb' 16 5

/-- imm = w[15:0] (R100, R102). -/
def immField (w : Word) : BitVec 16 := w.extractLsb' 0 16

/-- Format Z: no operand, [23:0] zero (R101). -/
def formatZ (i : Instr) (w : Word) : Except DecodeError Instr :=
  if zField w = 0 ∧ rdField w = 0 ∧ immField w = 0 then .ok i else .error .reservedField

/-- Format R: operand rd, [23:21] and [15:0] zero (R101). -/
def formatR (f : BitVec 5 → Instr) (w : Word) : Except DecodeError Instr :=
  if zField w = 0 ∧ immField w = 0 then .ok (f (rdField w)) else .error .reservedField

/-- Format I: operand imm, [23:16] zero (R101). -/
def formatI (f : BitVec 16 → Instr) (w : Word) : Except DecodeError Instr :=
  if zField w = 0 ∧ rdField w = 0 then .ok (f (immField w)) else .error .reservedField

/-- Format RI: operands rd and imm, [23:21] zero (R101). -/
def formatRI (f : BitVec 5 → BitVec 16 → Instr) (w : Word) : Except DecodeError Instr :=
  if zField w = 0 then .ok (f (rdField w) (immField w)) else .error .reservedField

/-- The opcode map (R104): the row a word selects, or why it selects none. -/
def decode (w : Word) : Except DecodeError Instr :=
  let op := opField w
  if op = 0x00#8 then formatZ .nop w
  else if op = 0x01#8 then formatZ .clr w
  else if op = 0x02#8 then formatZ .run w
  else if op = 0x10#8 then formatZ .chklen w
  else if op = 0x11#8 then formatZ .verdet w
  else if op = 0x12#8 then formatI .ldkey w
  else if op = 0x18#8 then formatI .ldblk w
  else if op = 0x19#8 then formatZ .modexp w
  else if op = 0x1A#8 then formatZ .append w
  else if op = 0x1B#8 then formatI .decblk w
  else if op = 0x1C#8 then formatZ .assemble w
  else if op = 0x20#8 then formatZ .seek w
  else if op = 0x21#8 then formatRI .rdstrs w
  else if op = 0x22#8 then formatR .rdstr w
  else if op = 0x23#8 then formatR .rdopt w
  else if op = 0x24#8 then formatRI .rdraw w
  else if op = 0x25#8 then formatR .rddec2 w
  else if op = 0x26#8 then formatI .skip w
  else if op = 0x27#8 then formatZ .nqload w
  else if op = 0x30#8 then formatR .dateg w
  else if op = 0x31#8 then formatRI .datel w
  else if op = 0x32#8 then formatRI .code w
  else if op = 0x33#8 then formatR .gender w
  else .error .reservedOpcode

/-- The opcode of a command (R104). -/
def Instr.opcode : Instr → Byte
  | .nop => 0x00#8
  | .clr => 0x01#8
  | .run => 0x02#8
  | .chklen => 0x10#8
  | .verdet => 0x11#8
  | .ldkey _ => 0x12#8
  | .ldblk _ => 0x18#8
  | .modexp => 0x19#8
  | .append => 0x1A#8
  | .decblk _ => 0x1B#8
  | .assemble => 0x1C#8
  | .seek => 0x20#8
  | .rdstrs _ _ => 0x21#8
  | .rdstr _ => 0x22#8
  | .rdopt _ => 0x23#8
  | .rdraw _ _ => 0x24#8
  | .rddec2 _ => 0x25#8
  | .skip _ => 0x26#8
  | .nqload => 0x27#8
  | .dateg _ => 0x30#8
  | .datel _ _ => 0x31#8
  | .code _ _ => 0x32#8
  | .gender _ => 0x33#8

/-- The rd field of a command's word, 0 where the format has none (R101). -/
def Instr.rdBits : Instr → BitVec 5
  | .rdstrs rd _ | .rdraw rd _ | .datel rd _ | .code rd _ => rd
  | .rdstr rd | .rdopt rd | .rddec2 rd | .dateg rd | .gender rd => rd
  | .nop | .clr | .run | .chklen | .verdet | .modexp | .append | .assemble | .seek | .nqload => 0#5
  | .ldkey _ | .ldblk _ | .decblk _ | .skip _ => 0#5

/-- The imm field of a command's word, 0 where the format has none (R101, R102). -/
def Instr.immBits : Instr → BitVec 16
  | .rdstrs _ v | .rdraw _ v | .datel _ v | .code _ v => v
  | .ldkey v | .ldblk v | .decblk v | .skip v => v
  | .nop | .clr | .run | .chklen | .verdet | .modexp | .append | .assemble | .seek | .nqload => 0#16
  | .rdstr _ | .rdopt _ | .rddec2 _ | .dateg _ | .gender _ => 0#16

/-- The word of a command: op, three zero bits, rd, imm (R100). -/
def encode (i : Instr) : Word :=
  i.opcode ++ 0#3 ++ i.rdBits ++ i.immBits

/-- mask(C): the bits that must match, by format (R101). -/
def Instr.mask : Instr → Word
  | .nop | .clr | .run | .chklen | .verdet | .modexp | .append | .assemble | .seek | .nqload => 0xFFFFFFFF#32
  | .rdstr _ | .rdopt _ | .rddec2 _ | .dateg _ | .gender _ => 0xFFE0FFFF#32
  | .ldkey _ | .ldblk _ | .decblk _ | .skip _ => 0xFFFF0000#32
  | .rdstrs _ _ | .rdraw _ _ | .datel _ _ | .code _ _ => 0xFFE00000#32

/-- The word of a table row as the host numbers its bits: one 32-bit word, no later words. -/
def decodeTableWord (_nbits w : Nat) : Option Instr :=
  match decode (BitVec.ofNat 32 w) with
  | .ok i => some i
  | .error _ => none

end Sys2Proof
end

