-- ==== Sys2Proof/Config.lean ====
section
/-! DEFINITION. The parameters of the step function (R8 to R11 of 00_scope.md, R48 of 10_state.md): constants the
spec leaves OPEN. Nothing the host or the engine does changes them. -/

namespace Sys2Proof

/-- ProtocolVersion as VER holds it (R25): not detected in this call, V1 or V2. -/
inductive Version where
  | none
  | v1
  | v2
  deriving DecidableEq, Repr, Inhabited

/-- Block-size class (R135, Glossary): LARGE for 128-byte blocks, TRAIL for the 74-byte block. -/
inductive BlockClass where
  | large
  | trail
  deriving DecidableEq, Repr, Inhabited

/-- Which of the two delimiters a parameter names (R8, EXTRA_DELIM in {DELIM_A, DELIM_B}). -/
inductive DelimName where
  | a
  | b
  deriving DecidableEq, Repr, Inhabited

/-- DOC's KeyParams: a pair (modulus, exponent) (R8, R26). -/
structure KeyParams where
  n : BigWord
  e : BigWord
  deriving DecidableEq, Repr, Inhabited

/-- A parameter set as it is proposed: the OPEN parameters (R8), the delimiters (R9) and the two policy parameters (R10). The
defaults are the spec's. -/
structure ParameterSet where
  magicV1       : Vector Byte 4
  magicV2       : Vector Byte 4
  keyV1Large    : KeyParams
  keyV1Trail    : KeyParams
  keyV2Large    : KeyParams
  keyV2Trail    : KeyParams
  marker        : Byte
  term          : Byte
  extraDelim    : DelimName
  delimA        : Byte := 0xE0#8
  delimB        : Byte := 0xE1#8
  zeroResultLen : Fin 2 := 1
  termConsumed  : Bool := true
  deriving DecidableEq, Repr

/-- The constraints every parameter set must meet (R11). Those on EXTRA_DELIM, ZERO_RESULT_LEN and the upper bounds of the
keys are carried by the types. -/
def ParameterSet.legal (p : ParameterSet) : Bool :=
  p.magicV1 != p.magicV2 && p.delimA != p.delimB &&
    p.keyV1Large.n != 0 && p.keyV1Trail.n != 0 && p.keyV2Large.n != 0 && p.keyV2Trail.n != 0

/-- The parameters of an engine: a parameter set that meets R11. No other set is one, so no state of the machine holds an
illegal set; `State.configured` refuses one by name. -/
structure Config extends ParameterSet where
  isLegal : toParameterSet.legal = true
  deriving DecidableEq, Repr

/-- Some legal set; it shows only that `Config` has a value, and no state holds it. -/
def Config.witness : Config where
  magicV1 := Vector.replicate 4 0#8
  magicV2 := Vector.replicate 4 1#8
  keyV1Large := { n := 1#1024, e := 0#1024 }
  keyV1Trail := { n := 1#1024, e := 0#1024 }
  keyV2Large := { n := 1#1024, e := 0#1024 }
  keyV2Trail := { n := 1#1024, e := 0#1024 }
  marker := 0#8
  term := 0#8
  extraDelim := .a
  isLegal := by decide +kernel

/-- The parameter values of an engine at hand. No body: nothing is known of them but R11 (R8: no rule depends on a value). -/
opaque Config.given [Inhabited Config] : Config

/-- The parameters the engine starts with: any legal set (R8, R11; log entry 1). -/
def Config.engine : Config := @Config.given ⟨Config.witness⟩

end Sys2Proof
end

