-- ==== Sys2Proof/Machine/State.lean ====
section
/-! DEFINITION. The state of the engine as plain data (R20 of 10_state.md), the reasons a step can stop, and the state
after reset (R49). -/

namespace Sys2Proof.Machine

/-- A memory of `w`-bit elements: (address, value) cells in canonical form, addresses strictly rising and no cell holding
what an unlisted address reads as (`Memory.default`). With `w = 8` it is a list of `Host.Cell`. -/
abbrev Memory (w : Nat) := List (Nat × BitVec w)

/-- DESIGN CHOICE (log entry 2; unsafe). What an unlisted address reads as: 0, as I1 of 93_implementation_defined.md
allows for contents no rule reads. -/
def Memory.default (w : Nat) : BitVec w := 0

/-- A slot (R21): absent, or present with a byte string that may be empty; its length is the string's. -/
abbrev Slot := Option (List Byte)

/-- The error kinds (R231 of 60_exceptions.md); ERR = 0 is `none` of an `Option ErrorKind`. -/
inductive ErrorKind where
  | insufficientBytes
  | unknownVersion
  | malformedField
  | invalidText
  | insufficientParts
  | configError
  | unspecified
  | illegalCommand
  deriving DecidableEq, Repr

/-- Width of a host access (R83: only 32 bits is accepted). -/
inductive AccessWidth where
  | bits8
  | bits16
  | bits32
  deriving DecidableEq, Repr

/-- One host action (R80 of 20_memory.md) at the port: an access at a byte offset of the 16 KiB register space (R41), or a
change of the reset input (R260 of 70_reset_and_hazards.md; R80's Reset is the two in a row). -/
inductive HostAction where
  | write (width : AccessWidth) (offset : BitVec 14) (data : Word)
  | read (width : AccessWidth) (offset : BitVec 14)
  | assertReset
  | releaseReset
  deriving DecidableEq, Repr

/-- What the port answered to the last host action: nothing, an accepted write, a value, or an error response (R83). -/
inductive Response where
  | none
  | written
  | value (v : Word)
  | rejected
  deriving DecidableEq, Repr

/-- The state: R20's list, then four fields of the model's own (`config` to `response`). -/
structure State where
  /-- RAW, R23. -/
  raw : Memory 8
  /-- RAWLEN, R24. -/
  rawLen : BitVec 16
  /-- VER, R25. -/
  ver : Version
  /-- MX, the base, R27. -/
  mx : BigWord
  /-- MN, the modulus, R27. -/
  mn : BigWord
  /-- ME, the exponent, R27. -/
  me : BigWord
  /-- MR, the result, R28. -/
  mr : BigWord
  /-- MRLEN, R28. -/
  mrLen : BitVec 8
  /-- DBUF, R29. -/
  dbuf : Memory 8
  /-- DLEN, R29. -/
  dlen : BitVec 10
  /-- CUR, R30. -/
  cur : BitVec 10
  /-- LASTDELIM, R31. -/
  lastDelim : Byte
  /-- LDVALID, R31. -/
  ldValid : Bool
  /-- NQ, R32. -/
  nq : Memory 4
  /-- NQH, R32. -/
  nqh : BitVec 11
  /-- NQT, R32. -/
  nqt : BitVec 11
  /-- LCNT, R33. -/
  lcnt : BitVec 6
  /-- S0 to S31, R21. -/
  slots : Vector Slot 32
  /-- UPC, R34. -/
  upc : BitVec 5
  /-- ERR, R35. -/
  err : Option ErrorKind
  /-- EINFO, R36. -/
  einfo : BitVec 32
  /-- RECVALID, R37. -/
  recValid : Bool
  /-- BUSY, R38. -/
  busy : Bool
  /-- SSEL, R39. -/
  ssel : BitVec 5
  /-- The parameters of the step function, a legal set (R11, R48); nothing writes them (log entry 1). -/
  config : Config
  /-- The level of the reset input (R260); true while asserted (log entry 3). -/
  resetLine : Bool
  /-- The host's coming actions, oldest first (R80, R86; log entry 3). -/
  pending : List HostAction
  /-- The port's answer to the last host action (R80, R83; log entry 3). -/
  response : Response
  deriving DecidableEq, Repr

/-- The reasons a step can fault: none. Every stop the spec describes (R236) leaves a state the spec describes, so it is a
next state, and an access the spec rejects (R83) is answered with an error response. Nothing raises a fault. -/
inductive Fault where
  deriving DecidableEq, Repr

/-- The reasons a step or the set-up of the engine can be refused. -/
inductive Refusal where
  /-- Raised by `State.configured` for a parameter set that violates R11, which the spec has the model refuse; safe. -/
  | illegalParameters
  /-- Raised by an arm of `exec` whose command has no meaning yet; safe. No arm raises it now. -/
  | notModelled (mnemonic : String)
  deriving DecidableEq, Repr

/-- The state after reset (R49, R260). Contents of RAW, DBUF and NQ: log entry 2. The parameters: log entry 1. The four
fields of the model's own: log entry 3. -/
def State.reset : State where
  raw := []
  rawLen := 0#16
  ver := .none
  mx := 0#1024
  mn := 0#1024
  me := 0#1024
  mr := 0#1024
  mrLen := 0#8
  dbuf := []
  dlen := 0#10
  cur := 0#10
  lastDelim := 0#8
  ldValid := false
  nq := []
  nqh := 0#11
  nqt := 0#11
  lcnt := 0#6
  slots := Vector.replicate 32 none
  upc := 0#5
  err := none
  einfo := 0#32
  recValid := false
  busy := false
  ssel := 0#5
  config := Config.engine
  resetLine := false
  pending := []
  response := .none

end Sys2Proof.Machine
end

