-- ==== Sys2Proof/Machine/Ops.lean ====
section
/-! DEFINITION. The named operations: over memory cells, integers and bytes (R14, R71, R72), slots (R21, R22), the result of
a command body, the stop (R236 of 60_exceptions.md), the return from it (CLR, R212 of 44_sequencer.md), the set-up with a
parameter set (R11 of 00_scope.md), and the acceptance of a command (R103 of 30_encoding.md). -/

namespace Sys2Proof.Machine

/-! ### Memory cells -/

/-- The element at an address. -/
def Memory.read {w : Nat} : Memory w → Nat → BitVec w
  | [], _ => Memory.default w
  | (b, x) :: m, a => if a = b then x else Memory.read m a

/-- Write one element, keeping the canonical form: writing the default removes the cell. -/
def Memory.write {w : Nat} : Memory w → Nat → BitVec w → Memory w
  | [], a, v => if v = Memory.default w then [] else [(a, v)]
  | (b, x) :: m, a, v =>
    if a < b then (if v = Memory.default w then (b, x) :: m else (a, v) :: (b, x) :: m)
    else if a = b then (if v = Memory.default w then m else (b, v) :: m)
    else (b, x) :: Memory.write m a v

/-- The canonical form of cells whose addresses start at `lo` or above. -/
def Memory.wfFrom {w : Nat} (lo : Nat) : Memory w → Bool
  | [] => true
  | (b, x) :: m => lo ≤ b && x != Memory.default w && Memory.wfFrom (b + 1) m

/-- The canonical form: addresses strictly rising, no cell holding the default. -/
def Memory.wf {w : Nat} (m : Memory w) : Bool := Memory.wfFrom 0 m

/-- Every listed address lies below the memory's size. -/
def Memory.below {w : Nat} (n : Nat) (m : Memory w) : Bool := m.all fun c => c.1 < n

/-- MemRead(SPACE, a, n): the elements at a, a+1, ..., a+n-1 (R14). -/
def Memory.readRange {w : Nat} (m : Memory w) (a : Nat) : Nat → List (BitVec w)
  | 0 => []
  | n + 1 => m.read a :: Memory.readRange m (a + 1) n

/-- MemWrite(SPACE, a, n, v): the elements of v at a, a+1, ... in order (R14). -/
def Memory.writeRange {w : Nat} (m : Memory w) (a : Nat) : List (BitVec w) → Memory w
  | [] => m
  | v :: vs => Memory.writeRange (m.write a v) (a + 1) vs

/-! ### Integers and bytes -/

/-- be_int: the big-endian unsigned integer of a byte string (R14, R71). -/
def beInt (bs : List Byte) : Nat := bs.foldl (fun v b => v * 256 + b.toNat) 0

/-- be_bytes: the k-byte big-endian encoding of v (R14, R71). -/
def beBytes (v : Nat) : Nat → List Byte
  | 0 => []
  | k + 1 => BitVec.ofNat 8 (v / 256 ^ k) :: beBytes v k

/-- bytelen: for v > 0 the least k with v < 256^k; for v = 0 the parameter ZERO_RESULT_LEN (R14, R144). -/
def byteLen (c : Config) (v : Nat) : Nat :=
  if v = 0 then c.zeroResultLen.val else Nat.log2 v / 8 + 1

/-- Byte i of a 1024-bit register, byte 0 the most significant (R71). -/
def bigByte (x : BigWord) (i : Nat) : Byte := x.extractLsb' (8 * (127 - i)) 8

/-- Replace byte i of a 1024-bit register, byte 0 the most significant (R45, R71). -/
def setBigByte (x : BigWord) (i : Nat) (b : Byte) : BigWord :=
  (x &&& ~~~(BitVec.zeroExtend 1024 0xFF#8 <<< (8 * (127 - i)))) ||| (BitVec.zeroExtend 1024 b <<< (8 * (127 - i)))

/-- The nibbles of a byte string: high nibble first, byte order preserved (R72). -/
def nibblesOf : List Byte → List Nibble
  | [] => []
  | b :: bs => b.extractLsb' 4 4 :: b.extractLsb' 0 4 :: nibblesOf bs

/-! ### Slots -/

/-- S[i] <- v (R14, R22); i is below 32 in every use that acceptance lets through (R107). -/
def State.setSlot (s : State) (i : Nat) (v : Slot) : State :=
  { s with slots := s.slots.setIfInBounds i v }

/-- All 32 slots absent. -/
def noSlots : Vector Slot 32 := Vector.replicate 32 none

/-- S[rd + j] <- absent for j = 0 to n-1 (R166, R195). -/
def State.clearSlots (s : State) (rd : Nat) : Nat → State
  | 0 => s
  | n + 1 => (s.setSlot rd none).clearSlots (rd + 1) n

/-! ### Results of a command body -/

/-- The result of a piece of pseudocode (R14): it ended with a value, or it raised an error; either way with the state
written so far. -/
inductive Res (α : Type) where
  | ok (a : α) (s : State)
  | raise (k : ErrorKind) (s : State)
  deriving Repr

/-- Run on unless the first part raised: nothing after a raise executes (R14). -/
def Res.bind {α β : Type} (r : Res α) (f : α → State → Res β) : Res β :=
  match r with
  | .ok a s => f a s
  | .raise k s => .raise k s

/-- The body of a command, from its first line to its end or its first raise (R15). -/
abbrev Body := State → Res Unit

/-- One body after another. -/
def Body.andThen (f g : Body) : Body := fun s => (f s).bind fun _ t => g t

/-! ### The stop and the return from it -/

/-- code(E), the value of ERR (R231). -/
def ErrorKind.code : ErrorKind → BitVec 4
  | .insufficientBytes => 1#4
  | .unknownVersion => 2#4
  | .malformedField => 3#4
  | .invalidText => 4#4
  | .insufficientParts => 5#4
  | .configError => 6#4
  | .unspecified => 7#4
  | .illegalCommand => 8#4

/-- EINFO from its fields: ERUN [31], ECUR [25:16], EUPC [12:8], EOP [7:0], all other bits 0 (R36). -/
def packEinfo (eop : Byte) (eupc : BitVec 5) (ecur : BitVec 10) (erun : Bool) : BitVec 32 :=
  BitVec.ofBool erun ++ 0#5 ++ ecur ++ 0#3 ++ eupc ++ eop

/-- The stop: the effect of `raise E` in any command (R236). -/
def State.stop (s : State) (k : ErrorKind) (eop : Byte) (inRun : Bool) : State :=
  { s with
    err := some k
    einfo := packEinfo eop s.upc s.cur inRun
    slots := noSlots
    recValid := false
    busy := false }

/-- The end of a body: its state, or the stop of what it raised (R236). -/
def Res.finish (r : Res Unit) (eop : Byte) (inRun : Bool) : State :=
  match r with
  | .ok _ s => s
  | .raise k s => s.stop k eop inRun

/-- Every state element at its reset value (R212, R260); the parameters and the host's side are not state of the engine. -/
def State.clearAll (s : State) : State :=
  { State.reset with
    config := s.config
    resetLine := s.resetLine
    pending := s.pending
    response := s.response }

/-! ### Setting the engine up -/

/-- The engine instantiated with a parameter set (R8, R11): the state after reset with those parameters, or, where the set
violates R11, the refusal of the configuration. -/
def State.configured (p : ParameterSet) : Host.Outcome State Fault Refusal :=
  if h : p.legal = true then .next { State.reset with config := ⟨p, h⟩ } else .refused .illegalParameters

/-! ### Acceptance of a command -/

/-- Step 5 of R103: RECVALID <- 0 unless the command is NOP. -/
def State.dropRecord (s : State) (i : Instr) : State :=
  { s with recValid := if i = .nop then s.recValid else false }

/-- BUSY <- b (R38). -/
def State.setBusy (s : State) (b : Bool) : State := { s with busy := b }

/-- The host writes the word of command `i` to CMD: steps 1, 2, 4, 5 and 6 of R103 (step 3, the row, is `decode`). -/
def accept (i : Instr) (run : State → State) (s : State) : Host.Outcome State Fault Refusal :=
  if s.busy = true then .next s
  else if s.err ≠ none ∧ i ≠ .clr then .next s
  else if i.wellFormed = false then .next (s.stop .illegalCommand i.opcode false)
  else .next ((run ((s.dropRecord i).setBusy true)).setBusy false)

/-- A command whose body raises under its own opcode, outside RUN (R236). -/
def command (i : Instr) (body : Body) (s : State) : Host.Outcome State Fault Refusal :=
  accept i (fun t => (body t).finish i.opcode false) s

/-- The host writes a word that selects no row to CMD: steps 1 to 3 of R103. -/
def acceptNoRow (w : Word) (s : State) : Host.Outcome State Fault Refusal :=
  if s.busy = true then .next s
  else if s.err ≠ none then .next s
  else .next (s.stop .illegalCommand (opField w) false)

end Sys2Proof.Machine
end

