-- ==== Sys2Proof/Machine/Operands.lean ====
section
/-! DEFINITION. What a command reads its operands from: slot numbers and immediates (R102), block classes (R135), the
KeyStore (R26), blocks of RAW (R73), bytes of DBUF at the cursor (R160), nibbles of the queue (R190). -/

namespace Sys2Proof.Machine

/-- The class an LDKEY immediate names: 0 LARGE, 1 TRAIL (R102, R134). -/
def classOf (imm : BitVec 16) : BlockClass := if imm = 0#16 then .large else .trail

/-- class(k): the key class of block k (R135). -/
def classOfBlock (k : Nat) : BlockClass := if k ≤ 4 then .large else .trail

/-- The KeyStore lookup (R26, R134): no pair when no version has been detected. -/
def keyOf (c : Config) : Version → BlockClass → Option KeyParams
  | .none, _ => none
  | .v1, .large => some c.keyV1Large
  | .v1, .trail => some c.keyV1Trail
  | .v2, .large => some c.keyV2Large
  | .v2, .trail => some c.keyV2Trail

/-- Start of block k in RAW (R73, R141). -/
def blockStart (k : Nat) : Nat := if k ≤ 4 then 6 + 128 * k else 646

/-- Length of block k in bytes (R73, R141). -/
def blockLen (k : Nat) : Nat := if k ≤ 4 then 128 else 74

/-- be_int of block k of RAW (R141). -/
def blockValue (raw : Memory 8) (k : Nat) : Nat := beInt (raw.readRange (blockStart k) (blockLen k))

/-- DBUF[CUR..DLEN): the bytes a scan command may still read (R160). DEDUCED (log entry 5): empty where CUR > DLEN. -/
def State.remaining (s : State) : List Byte :=
  s.dbuf.readRange s.cur.toNat (s.dlen.toNat - s.cur.toNat)

/-- CUR <- CUR + n (R160). -/
def State.advance (s : State) (n : Nat) : State :=
  { s with cur := BitVec.ofNat 10 (s.cur.toNat + n) }

/-- NQ[NQH..NQT), oldest first: the queue's content (R32). -/
def State.queue (s : State) : List Nibble :=
  s.nq.readRange s.nqh.toNat (s.nqt.toNat - s.nqh.toNat)

/-- pop(): the oldest nibble, or MalformedField on an empty queue (R190). DEDUCED (log entry 5): NQH > NQT reads as empty. -/
def pop (s : State) : Res Nibble :=
  if s.nqh.toNat < s.nqt.toNat then
    .ok (s.nq.read s.nqh.toNat) { s with nqh := BitVec.ofNat 11 (s.nqh.toNat + 1) }
  else .raise .malformedField s

/-- n pops in order (R192: all pops of a command come first). -/
def popMany : Nat → State → Res (List Nibble)
  | 0, s => .ok [] s
  | n + 1, s => (pop s).bind fun v t => (popMany n t).bind fun vs u => .ok (v :: vs) u

/-- dchar: the decimal digit character of 0 to 9; 10 and above have none (R14, R192). -/
def digitChar (d : Nibble) : Option Byte :=
  if d.toNat ≤ 9 then some (BitVec.ofNat 8 (0x30 + d.toNat)) else none

/-- Digit characters, checked from first to last (R192). -/
def digitChars : List Nibble → Option (List Byte)
  | [] => some []
  | d :: ds =>
    match digitChar d with
    | none => none
    | some b =>
      match digitChars ds with
      | none => none
      | some bs => some (b :: bs)

end Sys2Proof.Machine
end

