-- ==== Sys2Proof/Machine/Flags.lean ====
section
/-! DEFINITION. The flags and status views (R40 of 10_state.md): the delimiter latch (R31), ERR and EINFO (R35, R36),
STATUS (R42), SINFO (R44), LASTDELIM and NQPTR as the host reads them (R41). -/

namespace Sys2Proof.Machine

/-- is_delim(b) (R9). -/
def isDelim (c : Config) (b : Byte) : Bool := b == c.delimA || b == c.delimB

/-- The byte that signals "an extra field follows": EXTRA_DELIM (R8). -/
def extraDelimByte (c : Config) : Byte :=
  match c.extraDelim with
  | .a => c.delimA
  | .b => c.delimB

/-- LASTDELIM <- b; LDVALID <- 1 (R31, R161). -/
def State.latch (s : State) (b : Byte) : State := { s with lastDelim := b, ldValid := true }

/-- RDOPT's condition: LDVALID = 1 and LASTDELIM = EXTRA_DELIM (R170). -/
def State.extraFollows (s : State) : Bool := s.ldValid && s.lastDelim == extraDelimByte s.config

/-- The 2-bit coding of VER (R25). -/
def versionCode : Version → BitVec 2
  | .none => 0#2
  | .v1 => 1#2
  | .v2 => 2#2

/-- The 4 bits of ERR (R35). -/
def errCode : Option ErrorKind → BitVec 4
  | none => 0#4
  | some k => k.code

/-- STATUS: [13] LDVALID, [12:8] UPC, [7:4] ERR, [3:2] VER, [1] RECVALID, [0] BUSY, the rest 0 (R42). -/
def State.status (s : State) : Word :=
  0#18 ++ BitVec.ofBool s.ldValid ++ s.upc ++ errCode s.err ++ versionCode s.ver ++
    BitVec.ofBool s.recValid ++ BitVec.ofBool s.busy

/-- LASTDELIM as read: [8] LDVALID, [7:0] LASTDELIM (R41). -/
def State.lastDelimWord (s : State) : Word := 0#23 ++ BitVec.ofBool s.ldValid ++ s.lastDelim

/-- NQPTR: [26:16] NQT, [10:0] NQH (R41). -/
def State.nqPtr (s : State) : Word := 0#5 ++ s.nqt ++ 0#5 ++ s.nqh

/-- S[SSEL] (R44). -/
def State.selectedSlot (s : State) : Slot := s.slots[s.ssel.toNat]'s.ssel.isLt

/-- The length of a slot; 0 when absent (R21). -/
def slotLen : Slot → Nat
  | none => 0
  | some bs => bs.length

/-- SINFO: [31] present, [9:0] length of S[SSEL] (R41, R44). -/
def State.slotInfo (s : State) : Word :=
  BitVec.ofBool s.selectedSlot.isSome ++ 0#21 ++ BitVec.ofNat 10 (slotLen s.selectedSlot)

/-- SDATA[i]: byte i of S[SSEL], 0 at or beyond its length (R45). -/
def State.slotByte (s : State) (i : Nat) : Byte :=
  match s.selectedSlot with
  | none => 0#8
  | some bs => bs.getD i 0#8

/-- DBUFW[i]: DBUF[i] if i < DLEN, else 0 (R45). -/
def State.dbufByte (s : State) (i : Nat) : Byte :=
  if i < s.dlen.toNat then s.dbuf.read i else 0#8

end Sys2Proof.Machine
end

