-- ==== Sys2Proof/Machine/VersionKey.lean ====
section
/-! DEFINITION. CHKLEN, VERDET, LDKEY (40_version_key.md). -/

namespace Sys2Proof.Machine

/-- `if RAWLEN != 720: raise InsufficientBytes` (R130, R233). -/
def lengthCheck : Body := fun s =>
  if s.rawLen = 720#16 then .ok () s else .raise .insufficientBytes s

/-- CHKLEN (R131). -/
def chklen : Body := lengthCheck

/-- VERDET (R132, R133). -/
def verdet : Body := fun s =>
  (lengthCheck s).bind fun _ t =>
    let h := t.raw.readRange 0 4
    if h = t.config.magicV1.toList then .ok () { t with ver := .v1 }
    else if h = t.config.magicV2.toList then .ok () { t with ver := .v2 }
    else .raise .unknownVersion t

/-- LDKEY for a class (R134). -/
def loadKey (cls : BlockClass) : Body := fun s =>
  match keyOf s.config s.ver cls with
  | none => .raise .configError s
  | some k => .ok () { s with mn := k.n, me := k.e }

/-- CHKLEN as a command (R131). -/
def execChklen (s : State) : Host.Outcome State Fault Refusal := command .chklen chklen s

/-- VERDET as a command (R132). -/
def execVerdet (s : State) : Host.Outcome State Fault Refusal := command .verdet verdet s

/-- LDKEY as a command (R134). -/
def execLdkey (cls : BitVec 16) (s : State) : Host.Outcome State Fault Refusal :=
  command (.ldkey cls) (loadKey (classOf cls)) s

end Sys2Proof.Machine
end

