-- ==== Sys2Proof/Machine/ModExp.lean ====
section
/-! DEFINITION. LDBLK, MODEXP, APPEND, DECBLK, ASSEMBLE (41_modexp.md). -/

namespace Sys2Proof.Machine

/-- LDBLK k (R141). -/
def loadBlock (k : Nat) : Body := fun s =>
  (lengthCheck s).bind fun _ t => .ok () { t with mx := BitVec.ofNat 1024 (blockValue t.raw k) }

/-- The loop of R143 for the exponent bits below `bits`, from the highest down: left-to-right binary exponentiation. -/
def modexpLoop (x e n : Nat) : Nat → Nat → Nat
  | 0, r => r
  | i + 1, r =>
    let sq := r * r % n
    modexpLoop x e n i (if e.testBit i then sq * x % n else sq)

/-- The reference algorithm of R143: the value is x^e mod n (R142). -/
def modexpValue (x e n : Nat) : Nat := modexpLoop (x % n) e n 1024 (1 % n)

/-- MODEXP (R143, R144). -/
def modexp : Body := fun s =>
  if s.mn = 0#1024 then .raise .unspecified s
  else
    let r := modexpValue s.mx.toNat s.me.toNat s.mn.toNat
    .ok () { s with mr := BitVec.ofNat 1024 r, mrLen := BitVec.ofNat 8 (byteLen s.config r) }

/-- APPEND (R146). -/
def append : Body := fun s =>
  if s.dlen.toNat + s.mrLen.toNat > 768 then .raise .illegalCommand s
  else .ok ()
    { s with
      dbuf := s.dbuf.writeRange s.dlen.toNat (beBytes s.mr.toNat s.mrLen.toNat)
      dlen := BitVec.ofNat 10 (s.dlen.toNat + s.mrLen.toNat) }

/-- DECBLK k: LDBLK k, LDKEY class(k), MODEXP, APPEND, as if issued one after another (R148). -/
def decryptBlock (k : Nat) : Body :=
  (loadBlock k).andThen ((loadKey (classOfBlock k)).andThen (modexp.andThen append))

/-- The clears at ASSEMBLE's start (R149). -/
def State.clearBuffer (s : State) : State :=
  { s with dlen := 0#10, cur := 0#10, nqh := 0#11, nqt := 0#11, lastDelim := 0#8, ldValid := false }

/-- DECBLK for each listed block, in the list's order. -/
def decryptBlocks : List Nat → Body
  | [] => fun s => .ok () s
  | k :: ks => (decryptBlock k).andThen (decryptBlocks ks)

/-- ASSEMBLE (R149): blocks 0 to 5, strictly in this order. -/
def assemble : Body := fun s => decryptBlocks [0, 1, 2, 3, 4, 5] s.clearBuffer

/-- LDBLK as a command (R141). -/
def execLdblk (k : BitVec 16) (s : State) : Host.Outcome State Fault Refusal :=
  command (.ldblk k) (loadBlock k.toNat) s

/-- MODEXP as a command (R143). -/
def execModexp (s : State) : Host.Outcome State Fault Refusal := command .modexp modexp s

/-- APPEND as a command (R146). -/
def execAppend (s : State) : Host.Outcome State Fault Refusal := command .append append s

/-- DECBLK as a command (R148). -/
def execDecblk (k : BitVec 16) (s : State) : Host.Outcome State Fault Refusal :=
  command (.decblk k) (decryptBlock k.toNat) s

/-- ASSEMBLE as a command (R149). -/
def execAssemble (s : State) : Host.Outcome State Fault Refusal := command .assemble assemble s

end Sys2Proof.Machine
end

