-- ==== Sys2Proof/Machine/FieldScan.lean ====
section
/-! DEFINITION. SEEK, RDSTRS, RDSTR, RDOPT, RDRAW, RDDEC2, SKIP, NQLOAD (42_fieldscan.md). -/

namespace Sys2Proof.Machine

/-- The string before the first delimiter and that delimiter, or all bytes and none (R161). -/
def splitAtDelim (c : Config) : List Byte → List Byte × Option Byte
  | [] => ([], none)
  | b :: bs =>
    if isDelim c b = true then ([], some b)
    else
      let r := splitAtDelim c bs
      (b :: r.1, r.2)

/-- What scan_string() returns (R161), with the state it leaves. -/
structure Scan where
  acc   : List Byte
  ended : Bool
  state : State

/-- scan_string(): one delimiter-terminated string at the cursor; the delimiter is consumed and latched (R161). -/
def scanString (s : State) : Scan :=
  match splitAtDelim s.config s.remaining with
  | (acc, none) => { acc := acc, ended := true, state := s.advance acc.length }
  | (acc, some d) => { acc := acc, ended := false, state := (s.advance (acc.length + 1)).latch d }

/-- The least index of a byte in a list. -/
def indexOf (b : Byte) : List Byte → Option Nat
  | [] => none
  | x :: xs => if x = b then some 0 else (indexOf b xs).map (· + 1)

/-- SEEK (R162, R163): the search starts at index 0. -/
def seek : Body := fun s =>
  match indexOf s.config.marker (s.dbuf.readRange 0 s.dlen.toNat) with
  | none => .raise .malformedField s
  | some p =>
    if p + 2 > s.dlen.toNat then .raise .malformedField s
    else .ok () { s with cur := BitVec.ofNat 10 (p + 2) }

/-- The read attempts of RDSTRS: `n` more, `k` strings kept so far; the number kept in the end (R166). -/
def readStrings (rd : Nat) : Nat → Nat → State → Nat × State
  | 0, k, s => (k, s)
  | n + 1, k, s =>
    let r := scanString s
    let kept := if r.acc = [] then (k, r.state) else (k + 1, r.state.setSlot (rd + k) (some r.acc))
    if r.ended = true then kept else readStrings rd n kept.1 kept.2

/-- RDSTRS (R166, R167). -/
def rdstrs (rd count : Nat) : Body := fun s =>
  let r := readStrings rd count 0 (s.clearSlots rd count)
  .ok () { r.2 with lcnt := BitVec.ofNat 6 r.1 }

/-- RDSTR (R168). -/
def rdstr (rd : Nat) : Body := fun s =>
  let r := scanString s
  if r.ended = true then .raise .malformedField r.state
  else .ok () (r.state.setSlot rd (some r.acc))

/-- RDOPT (R170). -/
def rdopt (rd : Nat) : Body := fun s =>
  if s.extraFollows = true then rdstr rd s else .ok () (s.setSlot rd none)

/-- RDRAW (R172). -/
def rdraw (rd n : Nat) : Body := fun s =>
  if s.cur.toNat + n > s.dlen.toNat then .raise .malformedField s
  else .ok () ((s.setSlot rd (some (s.dbuf.readRange s.cur.toNat n))).advance n)

/-- Two decimal digits of a byte below 100 (R151, R174). -/
def twoDigits (b : Byte) : List Byte :=
  [BitVec.ofNat 8 (0x30 + b.toNat / 10), BitVec.ofNat 8 (0x30 + b.toNat % 10)]

/-- RDDEC2 (R174). DEDUCED (log entry 5): CUR > DLEN counts as the end of the buffer. -/
def rddec2 (rd : Nat) : Body := fun s =>
  if s.cur.toNat < s.dlen.toNat then
    let b := s.dbuf.read s.cur.toNat
    if b.toNat ≥ 100 then .raise .unspecified (s.advance 1)
    else .ok () ((s.advance 1).setSlot rd (some (twoDigits b)))
  else .raise .malformedField s

/-- SKIP (R175). -/
def skip (n : Nat) : Body := fun s =>
  if s.cur.toNat + n > s.dlen.toNat then .raise .malformedField s else .ok () (s.advance n)

/-- The bytes before the first TERM, and whether it was found (R176). -/
def splitAtTerm (t : Byte) : List Byte → List Byte × Bool
  | [] => ([], false)
  | b :: bs =>
    if b = t then ([], true)
    else
      let r := splitAtTerm t bs
      (b :: r.1, r.2)

/-- NQ filled from index 0 with the nibbles of a byte string, NQH at 0 and NQT after them (R176). -/
def State.loadQueue (s : State) (bs : List Byte) : State :=
  { s with nq := s.nq.writeRange 0 (nibblesOf bs), nqh := 0#11, nqt := BitVec.ofNat 11 (2 * bs.length) }

/-- NQLOAD (R176, R177). -/
def nqload : Body := fun s =>
  let r := splitAtTerm s.config.term s.remaining
  let t := (s.loadQueue r.1).advance r.1.length
  if r.2 = true then .ok () (if s.config.termConsumed = true then t.advance 1 else t)
  else .raise .malformedField t

/-- SEEK as a command (R162). -/
def execSeek (s : State) : Host.Outcome State Fault Refusal := command .seek seek s

/-- RDSTRS as a command (R166). -/
def execRdstrs (rd : BitVec 5) (count : BitVec 16) (s : State) : Host.Outcome State Fault Refusal :=
  command (.rdstrs rd count) (rdstrs rd.toNat count.toNat) s

/-- RDSTR as a command (R168). -/
def execRdstr (rd : BitVec 5) (s : State) : Host.Outcome State Fault Refusal :=
  command (.rdstr rd) (rdstr rd.toNat) s

/-- RDOPT as a command (R170). -/
def execRdopt (rd : BitVec 5) (s : State) : Host.Outcome State Fault Refusal :=
  command (.rdopt rd) (rdopt rd.toNat) s

/-- RDRAW as a command (R172). -/
def execRdraw (rd : BitVec 5) (n : BitVec 16) (s : State) : Host.Outcome State Fault Refusal :=
  command (.rdraw rd n) (rdraw rd.toNat n.toNat) s

/-- RDDEC2 as a command (R174). -/
def execRddec2 (rd : BitVec 5) (s : State) : Host.Outcome State Fault Refusal :=
  command (.rddec2 rd) (rddec2 rd.toNat) s

/-- SKIP as a command (R175). -/
def execSkip (n : BitVec 16) (s : State) : Host.Outcome State Fault Refusal :=
  command (.skip n) (skip n.toNat) s

/-- NQLOAD as a command (R176). -/
def execNqload (s : State) : Host.Outcome State Fault Refusal := command .nqload nqload s

end Sys2Proof.Machine
end

