-- ==== Sys2Proof/Machine/Nibble.lean ====
section
/-! DEFINITION. DATEG, DATEL, CODE, GENDER (43_nibble.md). -/

namespace Sys2Proof.Machine

/-- Eight digit characters as year, '/', month, '/', day (R193, R194). -/
def dateText (cs : List Byte) : List Byte :=
  cs.take 4 ++ [0x2F#8] ++ (cs.drop 4).take 2 ++ [0x2F#8] ++ (cs.drop 6).take 2

/-- date_group() (R193): absent on the marker 10, else eight digits; the pops come before the digit checks. -/
def dateGroup (s : State) : Res Slot :=
  (pop s).bind fun d0 t =>
    if d0 = 10#4 then .ok none t
    else (popMany 7 t).bind fun ds u =>
      match digitChars (d0 :: ds) with
      | none => .raise .unspecified u
      | some cs => .ok (some (dateText cs)) u

/-- DATEG (R193). -/
def dateg (rd : Nat) : Body := fun s =>
  (dateGroup s).bind fun g t => .ok () (t.setSlot rd g)

/-- The groups of DATEL: `n` more, `k` dates kept so far; the number kept in the end (R195). -/
def readDates (rd : Nat) : Nat → Nat → State → Res Nat
  | 0, k, s => .ok k s
  | n + 1, k, s =>
    (dateGroup s).bind fun g t =>
      match g with
      | none => readDates rd n k t
      | some d => readDates rd n (k + 1) (t.setSlot (rd + k) (some d))

/-- DATEL (R195). -/
def datel (rd count : Nat) : Body := fun s =>
  (readDates rd count 0 (s.clearSlots rd count)).bind fun k t => .ok () { t with lcnt := BitVec.ofNat 6 k }

/-- CODE (R196). -/
def code (rd width : Nat) : Body := fun s =>
  (popMany width s).bind fun vs t =>
    match digitChars vs with
    | none => .raise .unspecified t
    | some cs => .ok () (t.setSlot rd (some cs))

/-- The gender label: 0x01 male for code "01", 0x00 female for every other (R198). -/
def genderLabel (vs : List Nibble) : Byte := if vs = [0#4, 1#4] then 0x01#8 else 0x00#8

/-- GENDER (R198). -/
def gender (rd : Nat) : Body := fun s =>
  (popMany 2 s).bind fun vs t =>
    match digitChars vs with
    | none => .raise .unspecified t
    | some _ => .ok () (t.setSlot rd (some [genderLabel vs]))

/-- DATEG as a command (R193). -/
def execDateg (rd : BitVec 5) (s : State) : Host.Outcome State Fault Refusal :=
  command (.dateg rd) (dateg rd.toNat) s

/-- DATEL as a command (R195). -/
def execDatel (rd : BitVec 5) (count : BitVec 16) (s : State) : Host.Outcome State Fault Refusal :=
  command (.datel rd count) (datel rd.toNat count.toNat) s

/-- CODE as a command (R196). -/
def execCode (rd : BitVec 5) (width : BitVec 16) (s : State) : Host.Outcome State Fault Refusal :=
  command (.code rd width) (code rd.toNat width.toNat) s

/-- GENDER as a command (R198). -/
def execGender (rd : BitVec 5) (s : State) : Host.Outcome State Fault Refusal :=
  command (.gender rd) (gender rd.toNat) s

end Sys2Proof.Machine
end

