-- ==== Sys2Proof/Machine/Sequencer.lean ====
section
/-! DEFINITION. NOP, CLR, RUN and the microprogram (44_sequencer.md). -/

namespace Sys2Proof.Machine

/-- clear_call_state(): what CLR clears except RAW, RAWLEN, SSEL, ERR and EINFO (R213). -/
def State.clearCall (s : State) : State :=
  { s with
    ver := .none, mx := 0#1024, mn := 0#1024, me := 0#1024, mr := 0#1024, mrLen := 0#8
    dlen := 0#10, cur := 0#10, lastDelim := 0#8, ldValid := false, nqh := 0#11, nqt := 0#11, lcnt := 0#6
    slots := noSlots, recValid := false, upc := 0#5 }

/-- A micro-command: the command it is, and its body with the command's operands (R215). -/
structure Micro where
  instr : Instr
  body  : Body

/-- The microprogram MP, entries 0 to 26 (R215). -/
def microprogram : List Micro :=
  [⟨.chklen, chklen⟩, ⟨.verdet, verdet⟩, ⟨.assemble, assemble⟩, ⟨.seek, seek⟩] ++
  [⟨.rdstrs 0#5 3#16, rdstrs 0 3⟩, ⟨.rdstr 3#5, rdstr 3⟩, ⟨.rdstr 4#5, rdstr 4⟩, ⟨.rdopt 5#5, rdopt 5⟩,
   ⟨.rdstr 6#5, rdstr 6⟩, ⟨.rdstr 7#5, rdstr 7⟩, ⟨.rdstrs 8#5 3#16, rdstrs 8 3⟩, ⟨.rdstr 11#5, rdstr 11⟩] ++
  [⟨.rdraw 12#5 13#16, rdraw 12 13⟩, ⟨.rddec2 13#5, rddec2 13⟩, ⟨.nqload, nqload⟩] ++
  [⟨.datel 14#5 4#16, datel 14 4⟩, ⟨.code 18#5 2#16, code 18 2⟩, ⟨.dateg 19#5, dateg 19⟩,
   ⟨.code 20#5 2#16, code 20 2⟩, ⟨.dateg 21#5, dateg 21⟩, ⟨.dateg 22#5, dateg 22⟩, ⟨.dateg 23#5, dateg 23⟩,
   ⟨.gender 24#5, gender 24⟩] ++
  [⟨.skip 3#16, skip 3⟩, ⟨.rdraw 25#5 1#16, rdraw 25 1⟩, ⟨.skip 2#16, skip 2⟩, ⟨.rdraw 26#5 1#16, rdraw 26 1⟩]

/-- UPC advances by exactly 1 (R34). -/
def State.nextMicro (s : State) : State := { s with upc := s.upc + 1#5 }

/-- The end of an error-free RUN: UPC <- 27, RECVALID <- 1 (R214). -/
def State.finishRun (s : State) : State := { s with upc := 27#5, recValid := true }

/-- The loop of R214: UPC advances by 1 after each micro-command that completes (R34); a raise is the stop with the
micro-command's opcode and ERUN = 1, and ends RUN. -/
def runMicros : List Micro → State → State
  | [], s => s.finishRun
  | m :: ms, s =>
    match m.body s with
    | .raise k t => t.stop k m.instr.opcode true
    | .ok _ t => runMicros ms t.nextMicro

/-- RUN (R214). -/
def runAll (s : State) : State := runMicros microprogram s.clearCall

/-- NOP as a command: empty pseudocode (R211). -/
def execNop (s : State) : Host.Outcome State Fault Refusal := accept .nop (fun t => t) s

/-- CLR as a command: the only way out of an error (R212, R242). -/
def execClr (s : State) : Host.Outcome State Fault Refusal := accept .clr State.clearAll s

/-- RUN as a command (R214). -/
def execRun (s : State) : Host.Outcome State Fault Refusal := accept .run runAll s

end Sys2Proof.Machine
end

