-- ==== Sys2Proof/Machine/Dispatch.lean ====
section
/-! DEFINITION. The meaning of each command: one arm per constructor of `Instr`. -/

namespace Sys2Proof.Machine

/-- What the engine does when the host writes the word of a command to CMD (R103, R104). -/
def exec (i : Instr) (s : State) : Host.Outcome State Fault Refusal :=
  match i with
  | .nop => Sys2Proof.Machine.execNop s
  | .clr => Sys2Proof.Machine.execClr s
  | .run => Sys2Proof.Machine.execRun s
  | .chklen => Sys2Proof.Machine.execChklen s
  | .verdet => Sys2Proof.Machine.execVerdet s
  | .ldkey cls => Sys2Proof.Machine.execLdkey cls s
  | .ldblk k => Sys2Proof.Machine.execLdblk k s
  | .modexp => Sys2Proof.Machine.execModexp s
  | .append => Sys2Proof.Machine.execAppend s
  | .decblk k => Sys2Proof.Machine.execDecblk k s
  | .assemble => Sys2Proof.Machine.execAssemble s
  | .seek => Sys2Proof.Machine.execSeek s
  | .rdstrs rd count => Sys2Proof.Machine.execRdstrs rd count s
  | .rdstr rd => Sys2Proof.Machine.execRdstr rd s
  | .rdopt rd => Sys2Proof.Machine.execRdopt rd s
  | .rdraw rd n => Sys2Proof.Machine.execRdraw rd n s
  | .rddec2 rd => Sys2Proof.Machine.execRddec2 rd s
  | .skip n => Sys2Proof.Machine.execSkip n s
  | .nqload => Sys2Proof.Machine.execNqload s
  | .dateg rd => Sys2Proof.Machine.execDateg rd s
  | .datel rd count => Sys2Proof.Machine.execDatel rd count s
  | .code rd width => Sys2Proof.Machine.execCode rd width s
  | .gender rd => Sys2Proof.Machine.execGender rd s

end Sys2Proof.Machine
end

