-- ==== Sys2Proof/Machine/Port.lean ====
section
/-! DEFINITION. The host port: the register map (R41 of 10_state.md), the host actions (R80, R81 of 20_memory.md), rejected
accesses (R83), accesses while busy (R84), and the reset input (R260 of 70_reset_and_hazards.md). -/

namespace Sys2Proof.Machine

/-- Is a byte offset a word of the array window of `count` words at `base`? (R41; offsets are multiples of 4.) -/
def inWindow (base count off : Nat) : Bool := base ≤ off && off < base + 4 * count && off % 4 == 0

/-- The element a window offset names. -/
def windowIndex (base off : Nat) : Nat := (off - base) / 4

/-- A byte in bits [7:0] of a word, the rest 0 (R45). -/
def byteWord (b : Byte) : Word := b.zeroExtend 32

/-- The value of a readable register (R41); none for an offset that is unmapped, misaligned or write-only (R82, R83). -/
def readRegister (s : State) (off : Nat) : Option Word :=
  if off = 0x004 then some s.status
  else if off = 0x008 then some s.einfo
  else if off = 0x010 then some (s.rawLen.zeroExtend 32)
  else if off = 0x014 then some (s.dlen.zeroExtend 32)
  else if off = 0x018 then some (s.cur.zeroExtend 32)
  else if off = 0x01C then some s.lastDelimWord
  else if off = 0x020 then some s.nqPtr
  else if off = 0x024 then some (s.lcnt.zeroExtend 32)
  else if off = 0x028 then some (s.mrLen.zeroExtend 32)
  else if off = 0x02C then some (s.ssel.zeroExtend 32)
  else if off = 0x030 then some s.slotInfo
  else if inWindow 0x400 128 off = true then some (byteWord (bigByte s.mx (windowIndex 0x400 off)))
  else if inWindow 0x600 128 off = true then some (byteWord (bigByte s.mn (windowIndex 0x600 off)))
  else if inWindow 0x800 128 off = true then some (byteWord (bigByte s.me (windowIndex 0x800 off)))
  else if inWindow 0xA00 128 off = true then some (byteWord (bigByte s.mr (windowIndex 0xA00 off)))
  else if inWindow 0x1000 768 off = true then some (byteWord (s.dbufByte (windowIndex 0x1000 off)))
  else if inWindow 0x2000 768 off = true then some (byteWord (s.slotByte (windowIndex 0x2000 off)))
  else none

/-- PushRaw(b) (R81): store below 720, count up to 65535. -/
def State.pushRaw (s : State) (b : Byte) : State :=
  { s with
    raw := if s.rawLen.toNat < 720 then s.raw.write s.rawLen.toNat b else s.raw
    rawLen := if s.rawLen.toNat < 65535 then s.rawLen + 1#16 else s.rawLen }

/-- A word written to CMD (R103): the row it selects, or none (step 3). -/
def writeCommand (w : Word) (s : State) : Host.Outcome State Fault Refusal :=
  match decode w with
  | .ok i => exec i s
  | .error _ => acceptNoRow w s

/-- What a write of `d` to a writable register does (R41, R80); none for an offset that is unmapped, misaligned or
read-only (R82, R83). Bits of `d` above the used field are ignored (R41, I13). -/
def writeRegister (off : Nat) (d : Word) (s : State) : Option (Host.Outcome State Fault Refusal) :=
  if off = 0x000 then some (writeCommand d s)
  else if off = 0x00C then some (.next (s.pushRaw (d.extractLsb' 0 8)))
  else if off = 0x02C then some (.next { s with ssel := d.extractLsb' 0 5 })
  else if inWindow 0x400 128 off = true then
    some (.next { s with mx := setBigByte s.mx (windowIndex 0x400 off) (d.extractLsb' 0 8) })
  else if inWindow 0x600 128 off = true then
    some (.next { s with mn := setBigByte s.mn (windowIndex 0x600 off) (d.extractLsb' 0 8) })
  else if inWindow 0x800 128 off = true then
    some (.next { s with me := setBigByte s.me (windowIndex 0x800 off) (d.extractLsb' 0 8) })
  else none

/-- The port's answer. -/
def State.answer (s : State) (r : Response) : State := { s with response := r }

/-- May the port take an access now? Not while reset is asserted (R260); while BUSY only a read of STATUS (R84). -/
def State.portOpen (s : State) (isRead : Bool) (off : Nat) : Bool :=
  !s.resetLine && (!s.busy || (isRead && off == 0x004))

/-- A write access (R80, R83, R84). -/
def hostWrite (width : AccessWidth) (off : Nat) (d : Word) (s : State) : Host.Outcome State Fault Refusal :=
  if width = .bits32 ∧ s.portOpen false off = true then
    match writeRegister off d s with
    | none => .next (s.answer .rejected)
    | some (.next t) => .next (t.answer .written)
    | some (.fault r) => .fault r
    | some (.refused r) => .refused r
  else .next (s.answer .rejected)

/-- A read access (R78, R80, R83, R84). -/
def hostRead (width : AccessWidth) (off : Nat) (s : State) : Host.Outcome State Fault Refusal :=
  if width = .bits32 ∧ s.portOpen true off = true then
    match readRegister s off with
    | none => .next (s.answer .rejected)
    | some v => .next (s.answer (.value v))
  else .next (s.answer .rejected)

/-- The reset input released after it was asserted: every state element takes its reset value (R260). -/
def State.leaveReset (s : State) : State :=
  if s.resetLine = true then { s.clearAll with resetLine := false, response := .none } else s

/-- One host action (R80). -/
def hostAction (a : HostAction) (s : State) : Host.Outcome State Fault Refusal :=
  match a with
  | .write width off d => hostWrite width off.toNat d s
  | .read width off => hostRead width off.toNat s
  | .assertReset => .next { s with resetLine := true, response := .none }
  | .releaseReset => .next s.leaveReset

/-- One step: the oldest coming host action; with none the engine is idle and waits (R16, R49). -/
def stepOnce (s : State) : Host.Outcome State Fault Refusal :=
  match s.pending with
  | [] => .next s
  | a :: rest => hostAction a { s with pending := rest }

/-- Command(w): write w to CMD (R80). -/
def HostAction.command (w : Word) : HostAction := .write .bits32 0x000#14 w

end Sys2Proof.Machine
end

