-- ==== Sys2Proof/Machine/Step.lean ====
section
/-! DEFINITION. One step of the machine, and the placing of a command as its next one. -/

namespace Sys2Proof.Machine

/-- One step: one host action (R15, R16, R86). -/
def step (s : State) : Host.Outcome State Fault Refusal := stepOnce s

/-- The state whose next host action is Command(w), with the reset input released (log entry 3). -/
def State.withFetchWord (s : State) (_nbits w : Nat) : State :=
  { s with pending := HostAction.command (BitVec.ofNat 32 w) :: s.pending, resetLine := false }

end Sys2Proof.Machine
end

