-- ==== Sys2Proof/Machine/Assembly.lean ====
section
/-! DEFINITION. Programs as the assembler writes them (R109, R110 of 30_encoding.md): a command's text, and a line's host
actions. -/

namespace Sys2Proof.Machine

/-- A slot as written: s0 to s31 (R109). -/
def slotName (rd : BitVec 5) : String := "s" ++ toString rd.toNat

/-- A command as written: mnemonic, then `rd, imm` (R109). -/
def asmText : Instr → String
  | .nop => "NOP"
  | .clr => "CLR"
  | .run => "RUN"
  | .chklen => "CHKLEN"
  | .verdet => "VERDET"
  | .ldkey cls => "LDKEY " ++ toString cls.toNat
  | .ldblk k => "LDBLK " ++ toString k.toNat
  | .modexp => "MODEXP"
  | .append => "APPEND"
  | .decblk k => "DECBLK " ++ toString k.toNat
  | .assemble => "ASSEMBLE"
  | .seek => "SEEK"
  | .rdstrs rd count => "RDSTRS " ++ slotName rd ++ ", " ++ toString count.toNat
  | .rdstr rd => "RDSTR " ++ slotName rd
  | .rdopt rd => "RDOPT " ++ slotName rd
  | .rdraw rd n => "RDRAW " ++ slotName rd ++ ", " ++ toString n.toNat
  | .rddec2 rd => "RDDEC2 " ++ slotName rd
  | .skip n => "SKIP " ++ toString n.toNat
  | .nqload => "NQLOAD"
  | .dateg rd => "DATEG " ++ slotName rd
  | .datel rd count => "DATEL " ++ slotName rd ++ ", " ++ toString count.toNat
  | .code rd width => "CODE " ++ slotName rd ++ ", " ++ toString width.toNat
  | .gender rd => "GENDER " ++ slotName rd

/-- Which operand a SET directive stores (R109, R80 WriteOperand). -/
inductive OperandReg where
  | mx
  | mn
  | me
  deriving DecidableEq, Repr

/-- Base offset of an operand window (R41). -/
def windowBase : OperandReg → Nat
  | .mx => 0x400
  | .mn => 0x600
  | .me => 0x800

/-- PushRaw(b): write b to RAWPUSH (R80). -/
def pushRawAction (b : Byte) : HostAction := .write .bits32 0x00C#14 (b.zeroExtend 32)

/-- WriteOperand(X, i, b): write b to the i-th word of X's window (R80). -/
def writeOperandAction (x : OperandReg) (i : Nat) (b : Byte) : HostAction :=
  .write .bits32 (BitVec.ofNat 14 (windowBase x + 4 * i)) (b.zeroExtend 32)

/-- SelectSlot(k): write k to SSEL (R80). -/
def selectSlotAction (k : BitVec 5) : HostAction := .write .bits32 0x02C#14 (k.zeroExtend 32)

/-- Read(offset) (R80). -/
def readAction (off : BitVec 14) : HostAction := .read .bits32 off

/-- Reset: assert the reset input, then release it (R80, R260). -/
def resetActions : List HostAction := [.assertReset, .releaseReset]

/-- A line of a program: a command or a directive (R109). -/
inductive Line where
  | cmd (i : Instr)
  | push (bs : List Byte)
  | set (x : OperandReg) (v : Nat)
  | read (off : BitVec 14)
  deriving DecidableEq, Repr

/-- WriteOperand for each byte of a list, from index `i` on. -/
def operandActions (x : OperandReg) (i : Nat) : List Byte → List HostAction
  | [] => []
  | b :: bs => writeOperandAction x i b :: operandActions x (i + 1) bs

/-- The host actions of a line (R109): SET is 128 WriteOperand actions that store be_bytes(v, 128). -/
def lineActions : Line → List HostAction
  | .cmd i => [.command (encode i)]
  | .push bs => bs.map pushRawAction
  | .set x v => operandActions x 0 (beBytes v 128)
  | .read off => [readAction off]

/-- The host's decode sequence up to the STATUS read (R217, steps 1 to 4). -/
def decodeSequence (input : List Byte) : List HostAction :=
  [.command (encode .clr)] ++ input.map pushRawAction ++ [.command (encode .run), readAction 0x004#14]

end Sys2Proof.Machine
end

