-- ==== Sys2Proof/Machine/Record.lean ====
section
/-! DEFINITION. How the host reads a record (R216, R217 of 44_sequencer.md) and its characters (R75 of 20_memory.md, R276 of
70_reset_and_hazards.md). These are readings of the state; no command uses them. -/

namespace Sys2Proof.Machine

/-- DOC's LicenseRecord as the slots deliver it (R216). -/
structure LicenseRecord where
  vehicleCodes        : List (List Byte)
  surname             : List Byte
  initials            : List Byte
  permitCode          : Option (List Byte)
  idCountry           : List Byte
  licenceCountry      : List Byte
  vehicleRestrictions : List (List Byte)
  licenceNumber       : List Byte
  idNumber            : List Byte
  idNumberType        : List Byte
  issueDates          : List (List Byte)
  restrictionCode     : List Byte
  permitExpiry        : Option (List Byte)
  issueNumber         : List Byte
  birthdate           : List Byte
  issueDate           : List Byte
  expiryDate          : List Byte
  male                : Bool
  imageWidth          : Byte
  imageHeight         : Byte
  deriving DecidableEq, Repr

/-- Slot i; absent beyond the slot file. -/
def State.slot (s : State) (i : Nat) : Slot := s.slots.toList.getD i none

/-- A list field: the present slots from `i` on, in order (R216). -/
def State.slotList (s : State) (i n : Nat) : List (List Byte) :=
  (((s.slots.toList.drop i).take n).filter Option.isSome).map fun v => v.getD []

/-- A field the host renders as the empty string when its slot is absent (R216). -/
def State.slotText (s : State) (i : Nat) : List Byte := (s.slot i).getD []

/-- The record, which the host may take only when RECVALID = 1 (R37, R217). -/
def State.record (s : State) : Option LicenseRecord :=
  if s.recValid = true then
    some
      { vehicleCodes := s.slotList 0 3
        surname := s.slotText 3
        initials := s.slotText 4
        permitCode := s.slot 5
        idCountry := s.slotText 6
        licenceCountry := s.slotText 7
        vehicleRestrictions := s.slotList 8 3
        licenceNumber := s.slotText 11
        idNumber := s.slotText 12
        idNumberType := s.slotText 13
        issueDates := s.slotList 14 4
        restrictionCode := s.slotText 18
        permitExpiry := s.slot 19
        issueNumber := s.slotText 20
        birthdate := s.slotText 21
        issueDate := s.slotText 22
        expiryDate := s.slotText 23
        male := s.slotText 24 == [0x01#8]
        imageWidth := (s.slotText 25).getD 0 0#8
        imageHeight := (s.slotText 26).getD 0 0#8 }
  else none

/-- Bytes as text: one code point per byte, never a UTF-8 decode step (R75, R276). -/
def codePoints (bs : List Byte) : List Char := bs.map fun b => Char.ofNat b.toNat

end Sys2Proof.Machine
end

