-- ==== Sys2Proof/Safety.lean ====
section
/-! DEFINITION. The terms claims are stated in: when a command runs (R103), the invariants (R43, R50 of 10_state.md), and the
plaintext a successful RUN reads (DOC §8's round trip, V3 of 95_test_vectors.md). -/

namespace Sys2Proof.Machine

/-- A command written now is not rejected or ignored: BUSY = 0 and ERR = 0 (R103 steps 1 and 2). -/
abbrev State.Ready (s : State) : Prop := s.busy = false ∧ s.err = none

/-- Step 5 of R103 for a command other than NOP. -/
def State.accepted (s : State) : State := { s with recValid := false }

/-- The slots a command may write when it ends without error (R22). -/
def writesSlot (i : Instr) (j : Nat) : Bool :=
  match i with
  | .rdstrs rd count | .datel rd count => rd.toNat ≤ j && j < rd.toNat + count.toNat
  | .rdstr rd | .rdopt rd | .rddec2 rd | .dateg rd | .gender rd => j == rd.toNat
  | .rdraw rd _ | .code rd _ => j == rd.toNat
  | .clr | .run => true
  | .nop | .chklen | .verdet | .modexp | .append | .assemble | .seek | .nqload => false
  | .ldkey _ | .ldblk _ | .decblk _ | .skip _ => false

/-- The MEU commands and the length, version and key commands (R130, R140). -/
def isMeu : Instr → Bool
  | .chklen | .verdet | .ldkey _ | .ldblk _ | .modexp | .append | .decblk _ | .assemble => true
  | .nop | .clr | .run | .seek | .rdstrs _ _ | .rdstr _ | .rdopt _ | .rdraw _ _ | .rddec2 _ | .skip _ => false
  | .nqload | .dateg _ | .datel _ _ | .code _ _ | .gender _ => false

/-- The field scanner's commands (R160). -/
def isScanner : Instr → Bool
  | .seek | .rdstrs _ _ | .rdstr _ | .rdopt _ | .rdraw _ _ | .rddec2 _ | .skip _ | .nqload => true
  | .nop | .clr | .run | .chklen | .verdet | .ldkey _ | .ldblk _ | .modexp | .append | .decblk _ => false
  | .assemble | .dateg _ | .datel _ _ | .code _ _ | .gender _ => false

/-- The nibble decoder's commands (R191). -/
def isNibble : Instr → Bool
  | .dateg _ | .datel _ _ | .code _ _ | .gender _ => true
  | .nop | .clr | .run | .chklen | .verdet | .ldkey _ | .ldblk _ | .modexp | .append | .decblk _ => false
  | .assemble | .seek | .rdstrs _ _ | .rdstr _ | .rdopt _ | .rdraw _ _ | .rddec2 _ | .skip _ | .nqload => false

/-- Commands issued one by one (R249). -/
def execSeq : List Instr → State → State
  | [], s => s
  | i :: is, s =>
    match exec i s with
    | .next t => execSeq is t
    | .fault _ => s
    | .refused _ => s

/-- The commands of the microprogram, in order (R215). -/
def microCommands : List Instr := microprogram.map Micro.instr

/-- The invariants every host action preserves (R43, R50), with the canonical form of the three memories, and what R213 says
of EINFO: it is 0 whenever a RUN is accepted. -/
structure State.Inv (s : State) : Prop where
  legal      : s.config.legal = true
  rawWf      : s.raw.wf = true ∧ s.raw.below 720 = true
  dbufWf     : s.dbuf.wf = true ∧ s.dbuf.below 768 = true
  nqWf       : s.nq.wf = true ∧ s.nq.below 1536 = true
  cursor     : s.cur.toNat ≤ s.dlen.toNat
  dlenMax    : s.dlen.toNat ≤ 768
  queue      : s.nqh.toNat ≤ s.nqt.toNat
  nqtMax     : s.nqt.toNat ≤ 1536
  mrLenMax   : s.mrLen.toNat ≤ 128
  mrFits     : s.mr.toNat < 256 ^ s.mrLen.toNat
  lcntMax    : s.lcnt.toNat ≤ 32
  upcMax     : s.upc.toNat ≤ 27
  slotMax    : ∀ v ∈ s.slots.toList, slotLen v ≤ 768
  latch      : if s.ldValid = true then isDelim s.config s.lastDelim = true else s.lastDelim = 0#8
  errRaised  : s.err ≠ some .invalidText ∧ s.err ≠ some .insufficientParts
  errSlots   : s.err ≠ none → s.slots = noSlots
  record     : s.recValid = true → s.err = none ∧ s.upc = 27#5
  einfoZero  : s.einfo.extractLsb' 13 3 = 0#3 ∧ s.einfo.extractLsb' 26 5 = 0#5
  einfoIdle  : s.err = none → s.einfo = 0#32
  idle       : s.busy = false

/-- The version a magic prefix selects, if any (R132). -/
def versionOf (c : Config) (h : List Byte) : Option Version :=
  if h = c.magicV1.toList then some .v1 else if h = c.magicV2.toList then some .v2 else none

/-- The natural-length big-endian encoding of an integer, the length of 0 being ZERO_RESULT_LEN (R144, R146). -/
def naturalBytes (c : Config) (v : Nat) : List Byte := beBytes v (byteLen c v)

/-- Block k decrypted with its key: x^e mod n as a mathematical function (R142, R148). -/
def blockPlain (raw : Memory 8) (k : Nat) (key : KeyParams) : Nat :=
  blockValue raw k ^ key.e.toNat % key.n.toNat

/-- DOC's DecryptedBuffer for a pair of keys: the six results in block order, not padded (R74, R149). -/
def plainBuffer (c : Config) (raw : Memory 8) (large trail : KeyParams) : List Byte :=
  naturalBytes c (blockPlain raw 0 large) ++ naturalBytes c (blockPlain raw 1 large) ++
    naturalBytes c (blockPlain raw 2 large) ++ naturalBytes c (blockPlain raw 3 large) ++
    naturalBytes c (blockPlain raw 4 large) ++ naturalBytes c (blockPlain raw 5 trail)

/-- A delimiter-terminated string: its bytes and the delimiter that ends it. -/
abbrev Field := List Byte × Byte

/-- The bytes of a field in the buffer. -/
def fieldBytes (f : Field) : List Byte := f.1 ++ [f.2]

/-- A field holds no delimiter but its last byte (R161). -/
def fieldOk (c : Config) (f : Field) : Bool := f.1.all (fun b => !isDelim c b) && isDelim c f.2

/-- The non-empty strings of a list of fields, in order (R166). -/
def keptStrings (fs : List Field) : List (List Byte) := (fs.map Prod.fst).filter fun a => a ≠ []

/-- `n` slots filled from the first with the given values, the rest absent (R166, R195). -/
def packed (vs : List (List Byte)) (n : Nat) : List Slot :=
  (List.range n).map fun i => vs[i]?

/-- A date group as nibbles: the absence marker, or eight nibbles (R193). -/
def groupNibbles : Option (List Nibble) → List Nibble
  | none => [10#4]
  | some ds => ds

/-- A group that decodes: absent, or eight decimal digits (R192, R193). -/
def groupOk : Option (List Nibble) → Bool
  | none => true
  | some ds => ds.length == 8 && ds.all fun d => d.toNat ≤ 9

/-- The digit character of a decimal digit (R192). -/
def digitByte (d : Nibble) : Byte := BitVec.ofNat 8 (0x30 + d.toNat)

/-- The slot of a date group: year, '/', month, '/', day, or absent (R193, R194). -/
def groupSlot : Option (List Nibble) → Slot
  | none => none
  | some ds => some (dateText (ds.map digitByte))

/-- A plaintext in the field schema of the record (R215, R216, R218). -/
structure Plaintext where
  lead      : List Byte
  skipped   : Byte
  codes     : List Field
  surname   : Field
  initials  : Field
  permit    : Option Field
  idCountry : Field
  licCountry : Field
  restrictions : List Field
  licNumber : Field
  idNumber  : List Byte
  idType    : Byte
  region    : List Byte
  issue     : List (Option (List Nibble))
  restr     : List Nibble
  expiry    : Option (List Nibble)
  issueNo   : List Nibble
  birth     : Option (List Nibble)
  issued    : Option (List Nibble)
  expires   : Option (List Nibble)
  gender    : List Nibble
  leftover  : List Nibble
  gapA      : List Byte
  width     : Byte
  gapB      : List Byte
  height    : Byte
  tail      : List Byte
  deriving Repr

/-- The bytes of a plaintext, in the order of the microprogram (R215). With TERM_CONSUMED = 0 the terminator is the first
byte that step 13 skips (R176). -/
def Plaintext.bytes (p : Plaintext) (c : Config) : List Byte :=
  p.lead ++ [c.marker, p.skipped] ++ p.codes.flatMap fieldBytes ++ fieldBytes p.surname ++ fieldBytes p.initials ++
    (p.permit.toList.flatMap fieldBytes) ++ fieldBytes p.idCountry ++ fieldBytes p.licCountry ++
    p.restrictions.flatMap fieldBytes ++ fieldBytes p.licNumber ++ p.idNumber ++ [p.idType] ++ p.region ++
    [c.term] ++ p.gapA ++ [p.width] ++ p.gapB ++ [p.height] ++ p.tail

/-- The nibbles of a plaintext's nibble region, in the fixed consumption schedule (R218). -/
def Plaintext.nibbles (p : Plaintext) : List Nibble :=
  p.issue.flatMap groupNibbles ++ p.restr ++ groupNibbles p.expiry ++ p.issueNo ++ groupNibbles p.birth ++
    groupNibbles p.issued ++ groupNibbles p.expires ++ p.gender ++ p.leftover

/-- The conditions under which a plaintext matches the schema (R215, R218 and the rules of its micro-commands). -/
structure Plaintext.Fits (p : Plaintext) (c : Config) : Prop where
  lead      : c.marker ∉ p.lead
  codes     : p.codes.length = 3 ∧ ∀ f ∈ p.codes, fieldOk c f = true
  surname   : fieldOk c p.surname = true
  initials  : fieldOk c p.initials = true
  permit    : p.permit.isSome = (p.initials.2 == extraDelimByte c) ∧ ∀ f ∈ p.permit.toList, fieldOk c f = true
  idCountry : fieldOk c p.idCountry = true
  licCountry : fieldOk c p.licCountry = true
  restrictions : p.restrictions.length = 3 ∧ ∀ f ∈ p.restrictions, fieldOk c f = true
  licNumber : fieldOk c p.licNumber = true
  idNumber  : p.idNumber.length = 13
  idType    : p.idType.toNat < 100
  region    : c.term ∉ p.region ∧ nibblesOf p.region = p.nibbles
  issue     : p.issue.length = 4 ∧ ∀ g ∈ p.issue, groupOk g = true
  restr     : p.restr.length = 2 ∧ ∀ d ∈ p.restr, d.toNat ≤ 9
  expiry    : groupOk p.expiry = true
  issueNo   : p.issueNo.length = 2 ∧ ∀ d ∈ p.issueNo, d.toNat ≤ 9
  dates     : groupOk p.birth = true ∧ groupOk p.issued = true ∧ groupOk p.expires = true
  gender    : p.gender.length = 2 ∧ ∀ d ∈ p.gender, d.toNat ≤ 9
  gapA      : p.gapA.length = if c.termConsumed = true then 3 else 2
  gapB      : p.gapB.length = 2

/-- The slots a plaintext decodes to (R216). -/
def Plaintext.slots (p : Plaintext) : List Slot :=
  packed (keptStrings p.codes) 3 ++ [some p.surname.1, some p.initials.1, p.permit.map Prod.fst, some p.idCountry.1,
    some p.licCountry.1] ++ packed (keptStrings p.restrictions) 3 ++ [some p.licNumber.1, some p.idNumber,
    some (twoDigits p.idType)] ++ packed ((p.issue.filterMap id).map fun ds => dateText (ds.map digitByte)) 4 ++
    [some (p.restr.map digitByte), groupSlot p.expiry, some (p.issueNo.map digitByte), groupSlot p.birth,
      groupSlot p.issued, groupSlot p.expires, some [genderLabel p.gender], some [p.width], some [p.height]] ++
    List.replicate 5 none

end Sys2Proof.Machine
end

