-- ==== Sys2Proof/Certificates/Slice0/Obligations.lean ====
section
/-! DEFINITION. Statements for the provers. Each docstring names the rule it formalises. -/

open Sys2Proof Sys2Proof.Machine

/-! ### Words -/

/-- Decoding the word of a command gives the command back, every operand at every value (R100, R101, R104). -/
def Obligations.DecodeInvertsEncode : Prop :=
  ∀ i : Instr, decode (encode i) = .ok i

/-- A word that selects a row is the word of the command it selects: each word has one meaning (R100, R101, R104). -/
def Obligations.EncodeInvertsDecode : Prop :=
  ∀ (w : Word) (i : Instr), decode w = .ok i → encode i = w

/-- A word selects a command exactly when it agrees with its match word under its mask (R101). -/
def Obligations.MaskAndMatchSelect : Prop :=
  ∀ (w : Word) (i : Instr),
    w &&& i.mask = i.opcode.zeroExtend 32 <<< 24 ↔ ∃ j, decode w = .ok j ∧ j.opcode = i.opcode

/-- One word of each family, written out from R100, R101 and R104. -/
def Obligations.FamilyWordsDecode : Prop :=
  decode 0x02000000#32 = .ok .run ∧ decode 0x12000001#32 = .ok (.ldkey 1#16) ∧
    decode 0x18000005#32 = .ok (.ldblk 5#16) ∧ decode 0x240C000D#32 = .ok (.rdraw 12#5 13#16) ∧
    decode 0x23050000#32 = .ok (.rdopt 5#5) ∧ decode 0x310E0004#32 = .ok (.datel 14#5 4#16)

/-- A word with a reserved opcode, or with a valid opcode and a 1 in a bit its format requires to be 0, selects no row and
raises IllegalCommand (R105, R106). -/
def Obligations.ReservedWordsStop : Prop :=
  ∀ (w : Word) (s : State), s.Ready →
    ((0x03 ≤ (opField w).toNat ∧ (opField w).toNat ≤ 0x0F ∨ 0x13 ≤ (opField w).toNat ∧ (opField w).toNat ≤ 0x17 ∨
        0x1D ≤ (opField w).toNat ∧ (opField w).toNat ≤ 0x1F ∨ 0x28 ≤ (opField w).toNat ∧ (opField w).toNat ≤ 0x2F ∨
        0x34 ≤ (opField w).toNat) →
      decode w = .error .reservedOpcode ∧ writeCommand w s = .next (s.stop .illegalCommand (opField w) false)) ∧
    (∀ i : Instr, opField w = i.opcode → w &&& i.mask ≠ i.opcode.zeroExtend 32 <<< 24 →
      decode w = .error .reservedField ∧ writeCommand w s = .next (s.stop .illegalCommand (opField w) false))

/-- The operand ranges: inside them a command is legal, count, width and n of 0 among them; outside them it stops. RDRAW and
SKIP take any immediate, and a command without operands is always legal (R107). -/
def Obligations.OperandRanges : Prop :=
  ∀ s : State, s.Ready →
    (∀ cls : BitVec 16, if cls.toNat ≤ 1 then (Instr.ldkey cls).wellFormed = true
      else exec (.ldkey cls) s = .next (s.stop .illegalCommand 0x12#8 false)) ∧
    (∀ k : BitVec 16, if k.toNat ≤ 5 then (Instr.ldblk k).wellFormed = true ∧ (Instr.decblk k).wellFormed = true
      else exec (.ldblk k) s = .next (s.stop .illegalCommand 0x18#8 false) ∧
        exec (.decblk k) s = .next (s.stop .illegalCommand 0x1B#8 false)) ∧
    (∀ (rd : BitVec 5) (n : BitVec 16), if rd.toNat + n.toNat ≤ 32
      then (Instr.rdstrs rd n).wellFormed = true ∧ (Instr.datel rd n).wellFormed = true
      else exec (.rdstrs rd n) s = .next (s.stop .illegalCommand 0x21#8 false) ∧
        exec (.datel rd n) s = .next (s.stop .illegalCommand 0x31#8 false)) ∧
    (∀ (rd : BitVec 5) (n : BitVec 16), if n.toNat ≤ 768 then (Instr.code rd n).wellFormed = true
      else exec (.code rd n) s = .next (s.stop .illegalCommand 0x32#8 false)) ∧
    (∀ (rd : BitVec 5) (n : BitVec 16), (Instr.rdraw rd n).wellFormed = true ∧ (Instr.skip n).wellFormed = true) ∧
    (∀ i : Instr, i.wellFormed = false → i.immBits ≠ 0)

/-! ### The machine -/

/-- A step that finds Command(w) next, with w the word of a row and the port open, is `exec` of that row's command on the
state without that action; the port then answers "written" (R80, R103). -/
def Obligations.StepRunsDecodedCommand : Prop :=
  ∀ (s : State) (w : Word) (i : Instr) (rest : List HostAction),
    s.pending = HostAction.command w :: rest → s.resetLine = false → s.busy = false → decode w = .ok i →
    ∃ t, exec i { s with pending := rest } = .next t ∧ step s = .next { t with response := .written }

/-- With no host action the engine is idle (R49: it waits for host actions). -/
def Obligations.StepWaitsForHost : Prop :=
  ∀ s : State, s.pending = [] → step s = .next s

/-- While ERR is not 0 every command word but CLR changes no state; every other host access goes on (R238). -/
def Obligations.ErrorStateIgnoresCommands : Prop :=
  ∀ s : State, s.err ≠ none → s.busy = false → s.resetLine = false →
    (∀ w : Word, w ≠ 0x01000000#32 → writeCommand w s = .next s) ∧
    (∀ i : Instr, i ≠ .clr → exec i s = .next s) ∧
    (∀ (off : Nat) (d : Word) (t : State), off ≠ 0 → writeRegister off d s = some (.next t) →
      hostWrite .bits32 off d s = .next { t with response := .written } ∧ t.err = s.err) ∧
    (∀ (off : Nat) (v : Word), readRegister s off = some v →
      hostRead .bits32 off s = .next { s with response := .value v })

/-- The effect of a raise: ERR, EINFO with its four fields, all slots absent, RECVALID and BUSY 0, nothing else (R36, R236). -/
def Obligations.StopEffect : Prop :=
  ∀ (s : State) (k : ErrorKind) (eop : Byte) (inRun : Bool),
    s.stop k eop inRun =
      { s with err := some k, einfo := (s.stop k eop inRun).einfo, slots := Vector.replicate 32 none,
               recValid := false, busy := false } ∧
    (s.stop k eop inRun).einfo.extractLsb' 0 8 = eop ∧ (s.stop k eop inRun).einfo.extractLsb' 8 5 = s.upc ∧
    (s.stop k eop inRun).einfo.extractLsb' 16 10 = s.cur ∧
    (s.stop k eop inRun).einfo.getLsbD 31 = inRun ∧
    (s.stop k eop inRun).einfo.extractLsb' 13 3 = 0#3 ∧ (s.stop k eop inRun).einfo.extractLsb' 26 5 = 0#5

/-- The reset values the spec gives (R49). What RAW, DBUF and NQ hold is unspecified there and not stated here. -/
def Obligations.ResetValues : Prop :=
  State.reset.rawLen = 0 ∧ State.reset.ver = .none ∧ State.reset.mx = 0 ∧ State.reset.mn = 0 ∧
    State.reset.me = 0 ∧ State.reset.mr = 0 ∧ State.reset.mrLen = 0 ∧ State.reset.dlen = 0 ∧ State.reset.cur = 0 ∧
    State.reset.lastDelim = 0 ∧ State.reset.ldValid = false ∧ State.reset.nqh = 0 ∧ State.reset.nqt = 0 ∧
    State.reset.lcnt = 0 ∧ (∀ j, State.reset.slot j = none) ∧ State.reset.upc = 0 ∧ State.reset.err = none ∧
    State.reset.einfo = 0 ∧ State.reset.recValid = false ∧ State.reset.busy = false ∧ State.reset.ssel = 0 ∧
    (∀ i, State.reset.dbufByte i = 0)

/-- While reset is asserted every host access is rejected; when it is released every state element has its reset value (R260,
R49). The parameters and the host's coming actions stand. -/
def Obligations.ResetInput : Prop :=
  ∀ (s : State) (rest : List HostAction),
    (s.pending = .assertReset :: rest →
      step s = .next { s with pending := rest, resetLine := true, response := .none }) ∧
    (s.resetLine = true → ∀ (wd : AccessWidth) (off : BitVec 14) (d : Word),
      (s.pending = .write wd off d :: rest → step s = .next { s with pending := rest, response := .rejected }) ∧
      (s.pending = .read wd off :: rest → step s = .next { s with pending := rest, response := .rejected })) ∧
    (s.resetLine = true → s.pending = .releaseReset :: rest →
      step s = .next { State.reset with config := s.config, pending := rest })

/-- The invariants hold after reset (R43, R50, R213). The contents of RAW, DBUF and NQ it speaks of are the model's choice (log
entry 2). -/
def Obligations.ResetMeetsInvariants : Prop := State.reset.Inv

/-- Every step keeps the invariants of R43 and R50, EINFO = 0 whenever ERR = 0 (R213: so whenever a RUN is accepted), and the
canonical form of the three memories. -/
def Obligations.StepKeepsInvariants : Prop :=
  ∀ s t : State, s.Inv → step s = .next t → t.Inv

/-- STATUS is a view of the state elements of the same names (R42), with the codes of VER (R25) and of the error kinds (R231;
4 and 5 reserved by R232). -/
def Obligations.StatusFields : Prop :=
  ∀ s : State,
    s.status.getLsbD 0 = s.busy ∧ s.status.getLsbD 1 = s.recValid ∧
    s.status.extractLsb' 2 2 = versionCode s.ver ∧ s.status.extractLsb' 4 4 = errCode s.err ∧
    s.status.extractLsb' 8 5 = s.upc ∧ s.status.getLsbD 13 = s.ldValid ∧ s.status.extractLsb' 14 18 = 0#18 ∧
    versionCode .none = 0#2 ∧ versionCode .v1 = 1#2 ∧ versionCode .v2 = 2#2 ∧ errCode none = 0#4 ∧ readRegister s 0x004 = some s.status ∧
    errCode (some .insufficientBytes) = 1#4 ∧ errCode (some .unknownVersion) = 2#4 ∧
    errCode (some .malformedField) = 3#4 ∧ errCode (some .invalidText) = 4#4 ∧
    errCode (some .insufficientParts) = 5#4 ∧ errCode (some .configError) = 6#4 ∧
    errCode (some .unspecified) = 7#4 ∧ errCode (some .illegalCommand) = 8#4 ∧
    ∀ e, (errCode e).toNat ≤ 8

/-- PushRaw: the byte is stored below 720 and counted up to 65535, whatever ERR is; nothing else changes (R81). -/
def Obligations.PushRawStores : Prop :=
  ∀ (s : State) (d : Word) (rest : List HostAction),
    s.pending = .write .bits32 0x00C#14 d :: rest → s.resetLine = false → s.busy = false → s.raw.wf = true →
    ∃ t, step s = .next t ∧
      t = { s with raw := t.raw, rawLen := t.rawLen, pending := rest, response := .written } ∧
      (∀ a, t.raw.read a = if a = s.rawLen.toNat ∧ s.rawLen.toNat < 720 then d.extractLsb' 0 8 else s.raw.read a) ∧
      t.rawLen.toNat = if s.rawLen.toNat < 65535 then s.rawLen.toNat + 1 else 65535

/-- A host write to the i-th word of an operand window replaces byte i of that register, byte 0 the most significant, and
leaves the other 127 bytes; bits [31:8] of the data are ignored (R45). A host write to SSEL selects slot d[4:0] and changes
nothing else; bits [31:5] are ignored (R39, R41, R80). -/
def Obligations.OperandWindowWrite : Prop :=
  ∀ (s : State) (i : Nat) (d : Word), i < 128 → s.resetLine = false → s.busy = false →
    (∃ x, hostWrite .bits32 (0x400 + 4 * i) d s = .next { s with mx := x, response := .written } ∧
      ∀ j < 128, bigByte x j = if j = i then d.extractLsb' 0 8 else bigByte s.mx j) ∧
    (∃ x, hostWrite .bits32 (0x600 + 4 * i) d s = .next { s with mn := x, response := .written } ∧
      ∀ j < 128, bigByte x j = if j = i then d.extractLsb' 0 8 else bigByte s.mn j) ∧
    (∃ x, hostWrite .bits32 (0x800 + 4 * i) d s = .next { s with me := x, response := .written } ∧
      ∀ j < 128, bigByte x j = if j = i then d.extractLsb' 0 8 else bigByte s.me j) ∧
    hostWrite .bits32 0x02C d s = .next { s with ssel := d.extractLsb' 0 5, response := .written }

/-- An access of another width than 32 bits, at an offset that is no multiple of 4 or unmapped, a read of CMD or RAWPUSH and a
write of a read-only register are rejected: an error response and no other change (R83, R82). -/
def Obligations.RejectedAccessChangesNothing : Prop :=
  ∀ (s : State) (wd : AccessWidth) (off : Nat) (d : Word), off < 16384 →
    (wd ≠ .bits32 ∨ off % 4 ≠ 0 ∨ 0x034 ≤ off ∧ off < 0x400 ∨ 0xC00 ≤ off ∧ off < 0x1000 ∨
        0x1C00 ≤ off ∧ off < 0x2000 ∨ 0x2C00 ≤ off →
      hostWrite wd off d s = .next { s with response := .rejected } ∧
      hostRead wd off s = .next { s with response := .rejected }) ∧
    (off = 0x000 ∨ off = 0x00C → hostRead wd off s = .next { s with response := .rejected }) ∧
    (off = 0x004 ∨ off = 0x008 ∨ 0x010 ≤ off ∧ off ≤ 0x028 ∨ off = 0x030 ∨ 0xA00 ≤ off →
      hostWrite wd off d s = .next { s with response := .rejected })

/-- A host read never changes state: only the port's answer is new (R78). -/
def Obligations.ReadChangesNothing : Prop :=
  ∀ (s : State) (wd : AccessWidth) (off : BitVec 14) (rest : List HostAction),
    s.pending = .read wd off :: rest → ∃ r, step s = .next { s with pending := rest, response := r }

/-- While BUSY = 1 a read of STATUS is accepted and every other access is rejected (R84). -/
def Obligations.BusyPort : Prop :=
  ∀ (s : State) (wd : AccessWidth) (off : Nat) (d : Word), s.busy = true → s.resetLine = false →
    hostRead .bits32 0x004 s = .next { s with response := .value s.status } ∧
    hostWrite wd off d s = .next { s with response := .rejected } ∧
    (off ≠ 0x004 → hostRead wd off s = .next { s with response := .rejected })

/-- What a host read returns: the port answers the value of the register; EINFO, RAWLEN, DLEN, CUR, LASTDELIM with LDVALID,
NQPTR, LCNT, MRLEN and SSEL at their offsets (R41); in the windows of MX, MN, ME and MR byte i, byte 0 the most significant;
DBUFW[i] beyond DLEN, and SDATA[i] at or beyond the length of S[SSEL], read 0, inside they read the byte (R45); SINFO gives
present and length of S[SSEL] (R44). -/
def Obligations.WindowsReadBytes : Prop :=
  (∀ (s : State) (off : Nat) (v : Word), s.resetLine = false → s.busy = false → readRegister s off = some v →
    hostRead .bits32 off s = .next { s with response := .value v }) ∧
  (∀ s : State,
    readRegister s 0x008 = some s.einfo ∧ readRegister s 0x010 = some (BitVec.ofNat 32 s.rawLen.toNat) ∧
    readRegister s 0x014 = some (BitVec.ofNat 32 s.dlen.toNat) ∧
    readRegister s 0x018 = some (BitVec.ofNat 32 s.cur.toNat) ∧
    readRegister s 0x01C = some (BitVec.ofNat 32 ((if s.ldValid = true then 2 ^ 8 else 0) + s.lastDelim.toNat)) ∧
    readRegister s 0x020 = some (BitVec.ofNat 32 (2 ^ 16 * s.nqt.toNat + s.nqh.toNat)) ∧
    readRegister s 0x024 = some (BitVec.ofNat 32 s.lcnt.toNat) ∧
    readRegister s 0x028 = some (BitVec.ofNat 32 s.mrLen.toNat) ∧
    readRegister s 0x02C = some (BitVec.ofNat 32 s.ssel.toNat)) ∧
  (∀ (s : State) (i : Nat), i < 128 →
    readRegister s (0x400 + 4 * i) = some (BitVec.ofNat 32 (s.mx.toNat / 256 ^ (127 - i) % 256)) ∧
    readRegister s (0x600 + 4 * i) = some (BitVec.ofNat 32 (s.mn.toNat / 256 ^ (127 - i) % 256)) ∧
    readRegister s (0x800 + 4 * i) = some (BitVec.ofNat 32 (s.me.toNat / 256 ^ (127 - i) % 256)) ∧
    readRegister s (0xA00 + 4 * i) = some (BitVec.ofNat 32 (s.mr.toNat / 256 ^ (127 - i) % 256))) ∧
  ∀ (s : State) (i : Nat), i < 768 →
    readRegister s (0x1000 + 4 * i) = some (if i < s.dlen.toNat then (s.dbuf.read i).zeroExtend 32 else 0) ∧
    (s.slot s.ssel.toNat = none → readRegister s (0x2000 + 4 * i) = some 0 ∧ readRegister s 0x030 = some 0) ∧
    (∀ bs, s.slot s.ssel.toNat = some bs → bs.length ≤ 768 →
      readRegister s (0x2000 + 4 * i) = some (if h : i < bs.length then bs[i].zeroExtend 32 else 0) ∧
      readRegister s 0x030 = some (BitVec.ofNat 32 (2 ^ 31 + bs.length)))

/-- Nothing the host or the engine does changes the parameters (R26, R48). -/
def Obligations.ParametersConstant : Prop :=
  ∀ s t : State, step s = .next t → t.config = s.config

/-! ### NOP, CLR, and the version, key and modular-exponentiation commands -/

/-- NOP does nothing and leaves RECVALID as it is (R211). -/
def Obligations.NopDoesNothing : Prop :=
  decode 0x00000000#32 = .ok .nop ∧ ∀ s : State, exec .nop s = .next s

/-- CLR: every state element takes its reset value, whatever ERR is, so the state is the one after reset (R212). What RAW, DBUF
and NQ hold then is not stated. The parameters and the host's side stand. -/
def Obligations.ClrReturnsToReset : Prop :=
  decode 0x01000000#32 = .ok .clr ∧
  ∀ s : State, s.busy = false → ∃ t, exec .clr s = .next t ∧
    t = { s with
          raw := t.raw, rawLen := 0, ver := .none, mx := 0, mn := 0, me := 0, mr := 0, mrLen := 0, dbuf := t.dbuf
          dlen := 0, cur := 0, lastDelim := 0, ldValid := false, nq := t.nq, nqh := 0, nqt := 0, lcnt := 0
          slots := Vector.replicate 32 none, upc := 0, err := none, einfo := 0, recValid := false, busy := false
          ssel := 0 } ∧
    t = { State.reset with config := s.config, resetLine := s.resetLine, pending := s.pending, response := s.response }

/-- CHKLEN completes exactly when RAWLEN = 720 and else raises InsufficientBytes (R131). -/
def Obligations.ChklenChecksLength : Prop :=
  decode 0x10000000#32 = .ok .chklen ∧
  ∀ s : State, s.Ready →
    (s.rawLen.toNat = 720 → exec .chklen s = .next { s with recValid := false }) ∧
    (s.rawLen.toNat ≠ 720 → exec .chklen s = .next (s.stop .insufficientBytes 0x10#8 false))

/-- VERDET: length first, then an exact match of RAW[0..4) with one of the two prefixes (R132). -/
def Obligations.VerdetDetectsVersion : Prop :=
  decode 0x11000000#32 = .ok .verdet ∧
  ∀ s : State, s.Ready →
    (s.rawLen.toNat ≠ 720 → exec .verdet s = .next (s.stop .insufficientBytes 0x11#8 false)) ∧
    (s.rawLen.toNat = 720 → s.raw.readRange 0 4 = s.config.magicV1.toList →
      exec .verdet s = .next { s with ver := .v1, recValid := false }) ∧
    (s.rawLen.toNat = 720 → s.raw.readRange 0 4 = s.config.magicV2.toList →
      exec .verdet s = .next { s with ver := .v2, recValid := false }) ∧
    (s.rawLen.toNat = 720 → s.raw.readRange 0 4 ≠ s.config.magicV1.toList →
      s.raw.readRange 0 4 ≠ s.config.magicV2.toList →
      exec .verdet s = .next (s.stop .unknownVersion 0x11#8 false))

/-- LDKEY: the key pair of the detected version and the class, or ConfigError with no version (R134). -/
def Obligations.LdkeyLoadsKey : Prop :=
  decode 0x12000000#32 = .ok (.ldkey 0#16) ∧ decode 0x12000001#32 = .ok (.ldkey 1#16) ∧
  ∀ s : State, s.Ready →
    (∀ cls : BitVec 16, cls.toNat ≤ 1 → s.ver = .none →
      exec (.ldkey cls) s = .next (s.stop .configError 0x12#8 false)) ∧
    (s.ver = .v1 → exec (.ldkey 0#16) s =
      .next { s with mn := s.config.keyV1Large.n, me := s.config.keyV1Large.e, recValid := false }) ∧
    (s.ver = .v1 → exec (.ldkey 1#16) s =
      .next { s with mn := s.config.keyV1Trail.n, me := s.config.keyV1Trail.e, recValid := false }) ∧
    (s.ver = .v2 → exec (.ldkey 0#16) s =
      .next { s with mn := s.config.keyV2Large.n, me := s.config.keyV2Large.e, recValid := false }) ∧
    (s.ver = .v2 → exec (.ldkey 1#16) s =
      .next { s with mn := s.config.keyV2Trail.n, me := s.config.keyV2Trail.e, recValid := false })

/-- LDBLK k: block k of RAW as a big-endian integer, zero-extended to 1024 bits (R141). -/
def Obligations.LdblkLoadsBlock : Prop :=
  (∀ k : BitVec 16, decode (0x18#8 ++ 0#8 ++ k) = .ok (.ldblk k)) ∧
  ∀ (s : State) (k : BitVec 16), s.Ready → k.toNat ≤ 5 →
    (s.rawLen.toNat ≠ 720 → exec (.ldblk k) s = .next (s.stop .insufficientBytes 0x18#8 false)) ∧
    (s.rawLen.toNat = 720 → ∃ x, exec (.ldblk k) s = .next { s with mx := x, recValid := false } ∧
      (k.toNat ≤ 4 → x.toNat = beInt (s.raw.readRange (6 + 128 * k.toNat) 128)) ∧
      (k.toNat = 5 → x.toNat = beInt (s.raw.readRange 646 74)))

/-- MODEXP: MR is MX^ME mod MN as integers, MRLEN its natural byte length; a zero modulus raises Unspecified and writes
neither (R142, R143, R144). -/
def Obligations.ModexpComputesPower : Prop :=
  decode 0x19000000#32 = .ok .modexp ∧
  ∀ s : State, s.Ready →
    (s.mn ≠ 0 → ∃ r l, exec .modexp s = .next { s with mr := r, mrLen := l, recValid := false } ∧
      r.toNat = s.mx.toNat ^ s.me.toNat % s.mn.toNat ∧ l.toNat = byteLen s.config r.toNat) ∧
    (s.mn = 0 → exec .modexp s = .next (s.stop .unspecified 0x19#8 false))

/-- The natural byte length: the least k with v < 256^k for v > 0, ZERO_RESULT_LEN for 0; the encoding of that length has the
integer's value and no leading zero byte (R144). -/
def Obligations.NaturalByteLength : Prop :=
  ∀ (c : Config) (v : Nat),
    (v = 0 → byteLen c v = c.zeroResultLen.val) ∧
    (0 < v → v < 256 ^ byteLen c v ∧ (∀ k, v < 256 ^ k → byteLen c v ≤ k) ∧ (beBytes v (byteLen c v)).head? ≠ some 0) ∧
    beInt (beBytes v (byteLen c v)) = v ∧ (v < 2 ^ 1024 → byteLen c v ≤ 128)

/-- APPEND: the MRLEN-byte big-endian encoding of MR goes to DBUF at DLEN, or IllegalCommand beyond 768 bytes (R146). -/
def Obligations.AppendStoresResult : Prop :=
  decode 0x1A000000#32 = .ok .append ∧
  ∀ s : State, s.Ready →
    (768 < s.dlen.toNat + s.mrLen.toNat → exec .append s = .next (s.stop .illegalCommand 0x1A#8 false)) ∧
    (s.dlen.toNat + s.mrLen.toNat ≤ 768 → s.dbuf.wf = true → s.mr.toNat < 256 ^ s.mrLen.toNat →
      ∃ t, exec .append s = .next t ∧
        t = { s with dbuf := t.dbuf, dlen := t.dlen, recValid := false } ∧
        t.dlen.toNat = s.dlen.toNat + s.mrLen.toNat ∧
        beInt (t.dbuf.readRange s.dlen.toNat s.mrLen.toNat) = s.mr.toNat ∧
        ∀ a, a < s.dlen.toNat ∨ s.dlen.toNat + s.mrLen.toNat ≤ a → t.dbuf.read a = s.dbuf.read a)

/-- DECBLK k: LDBLK, LDKEY, MODEXP and APPEND for block k. On an input of 720 bytes with a version detected MX, MN, ME, MR
and MRLEN hold the block, its key and its result, and the result's natural encoding is appended to DBUF. The first error ends
it: InsufficientBytes with nothing written, ConfigError after MX is loaded, IllegalCommand when DBUF is full (R148, R241). -/
def Obligations.DecblkDecryptsBlock : Prop :=
  (∀ k : BitVec 16, decode (0x1B#8 ++ 0#8 ++ k) = .ok (.decblk k)) ∧
  ∀ (s : State) (k : BitVec 16), s.Ready → k.toNat ≤ 5 →
    (s.rawLen.toNat ≠ 720 → exec (.decblk k) s = .next (s.stop .insufficientBytes 0x1B#8 false)) ∧
    (s.rawLen.toNat = 720 → s.ver = .none →
      exec (.decblk k) s = .next
        (({ s with mx := BitVec.ofNat 1024 (blockValue s.raw k.toNat) } : State).stop .configError 0x1B#8 false)) ∧
    (∀ key : KeyParams, s.rawLen.toNat = 720 →
      keyOf s.config s.ver (if k.toNat ≤ 4 then .large else .trail) = some key →
      (s.dlen.toNat + byteLen s.config (blockPlain s.raw k.toNat key) ≤ 768 →
        exec (.decblk k) s = .next
          { s with
            mx := BitVec.ofNat 1024 (blockValue s.raw k.toNat), mn := key.n, me := key.e
            mr := BitVec.ofNat 1024 (blockPlain s.raw k.toNat key)
            mrLen := BitVec.ofNat 8 (byteLen s.config (blockPlain s.raw k.toNat key))
            dbuf := s.dbuf.writeRange s.dlen.toNat (naturalBytes s.config (blockPlain s.raw k.toNat key))
            dlen := BitVec.ofNat 10 (s.dlen.toNat + byteLen s.config (blockPlain s.raw k.toNat key))
            recValid := false }) ∧
      (768 < s.dlen.toNat + byteLen s.config (blockPlain s.raw k.toNat key) →
        exec (.decblk k) s = .next
          (({ s with
              mx := BitVec.ofNat 1024 (blockValue s.raw k.toNat), mn := key.n, me := key.e
              mr := BitVec.ofNat 1024 (blockPlain s.raw k.toNat key)
              mrLen := BitVec.ofNat 8 (byteLen s.config (blockPlain s.raw k.toNat key)) } : State).stop
            .illegalCommand 0x1B#8 false)))

/-- ASSEMBLE: DBUF becomes the six results joined in block order without padding, the cursor, the queue and the delimiter
latch are cleared, and the MEU registers hold block 5. The clears come before the length and version checks, so a failing
ASSEMBLE still empties DBUF (R149, R74). -/
def Obligations.AssembleJoinsBlocks : Prop :=
  decode 0x1C000000#32 = .ok .assemble ∧
  ∀ s : State, s.Ready →
    s.clearBuffer = { s with dlen := 0, cur := 0, nqh := 0, nqt := 0, lastDelim := 0, ldValid := false } ∧
    (s.rawLen.toNat ≠ 720 → exec .assemble s = .next (s.clearBuffer.stop .insufficientBytes 0x1C#8 false)) ∧
    (s.rawLen.toNat = 720 → s.ver = .none → exec .assemble s = .next
      (({ s.clearBuffer with mx := BitVec.ofNat 1024 (blockValue s.raw 0) } : State).stop .configError 0x1C#8 false)) ∧
    (∀ large trail : KeyParams, s.rawLen.toNat = 720 →
      keyOf s.config s.ver .large = some large → keyOf s.config s.ver .trail = some trail →
      (plainBuffer s.config s.raw large trail).length ≤ 768 ∧
      6 * s.config.zeroResultLen.val ≤ (plainBuffer s.config s.raw large trail).length ∧
      (trail.n.toNat ≤ 2 ^ 592 → (plainBuffer s.config s.raw large trail).length ≤ 714) ∧
      exec .assemble s = .next
        { s with
          mx := BitVec.ofNat 1024 (blockValue s.raw 5), mn := trail.n, me := trail.e
          mr := BitVec.ofNat 1024 (blockPlain s.raw 5 trail)
          mrLen := BitVec.ofNat 8 (byteLen s.config (blockPlain s.raw 5 trail))
          dbuf := s.dbuf.writeRange 0 (plainBuffer s.config s.raw large trail)
          dlen := BitVec.ofNat 10 (plainBuffer s.config s.raw large trail).length
          cur := 0, nqh := 0, nqt := 0, lastDelim := 0, ldValid := false, recValid := false } ∧
      (s.dbuf.wf = true →
        (s.dbuf.writeRange 0 (plainBuffer s.config s.raw large trail)).readRange 0
          (plainBuffer s.config s.raw large trail).length = plainBuffer s.config s.raw large trail))

/-! ### The field scanner -/

/-- SEEK: two bytes past the first marker in DBUF[0..DLEN), or MalformedField (R162). -/
def Obligations.SeekFindsFirstMarker : Prop :=
  decode 0x20000000#32 = .ok .seek ∧
  ∀ s : State, s.Ready →
    (∀ p, p + 2 ≤ s.dlen.toNat → s.dbuf.read p = s.config.marker → (∀ q < p, s.dbuf.read q ≠ s.config.marker) →
      exec .seek s = .next { s with cur := BitVec.ofNat 10 (p + 2), recValid := false }) ∧
    ((∀ q, q + 2 ≤ s.dlen.toNat → s.dbuf.read q ≠ s.config.marker) →
      exec .seek s = .next (s.stop .malformedField 0x20#8 false))

/-- RDSTRS: at most `count` read attempts, the non-empty strings packed from rd upward, the rest of the destination absent,
each consumed delimiter latched. Where the buffer ends before a delimiter the unterminated string is kept if it is not empty
and the scan stops without error (R166, R167). -/
def Obligations.RdstrsReadsList : Prop :=
  (∀ (rd : BitVec 5) (count : BitVec 16), decode (0x21#8 ++ 0#3 ++ rd ++ count) = .ok (.rdstrs rd count)) ∧
  ∀ (s : State) (rd : BitVec 5) (count : BitVec 16) (fs : List Field), s.Ready →
    rd.toNat + count.toNat ≤ 32 → (∀ f ∈ fs, fieldOk s.config f = true) →
    (∀ rest : List Byte, fs.length = count.toNat → s.remaining = fs.flatMap fieldBytes ++ rest →
      ∃ t, exec (.rdstrs rd count) s = .next t ∧
        t = { s with slots := t.slots, cur := BitVec.ofNat 10 (s.cur.toNat + (fs.flatMap fieldBytes).length),
                     lastDelim := (fs.map Prod.snd).getLast?.getD s.lastDelim,
                     ldValid := s.ldValid || !fs.isEmpty,
                     lcnt := BitVec.ofNat 6 (keptStrings fs).length, recValid := false } ∧
        ∀ j, t.slot j = if rd.toNat ≤ j ∧ j < rd.toNat + count.toNat
          then (keptStrings fs)[j - rd.toNat]? else s.slot j) ∧
    (∀ acc : List Byte, fs.length < count.toNat → (∀ b ∈ acc, isDelim s.config b = false) →
      s.remaining = fs.flatMap fieldBytes ++ acc →
      ∃ t, exec (.rdstrs rd count) s = .next t ∧
        t = { s with slots := t.slots, cur := BitVec.ofNat 10 (s.cur.toNat + s.remaining.length),
                     lastDelim := (fs.map Prod.snd).getLast?.getD s.lastDelim,
                     ldValid := s.ldValid || !fs.isEmpty,
                     lcnt := BitVec.ofNat 6 (keptStrings fs ++ [acc].filter (· ≠ [])).length, recValid := false } ∧
        ∀ j, t.slot j = if rd.toNat ≤ j ∧ j < rd.toNat + count.toNat
          then (keptStrings fs ++ [acc].filter (· ≠ []))[j - rd.toNat]? else s.slot j)

/-- RDSTR: the string up to the delimiter, even when empty, and the delimiter latched; MalformedField with CUR at the end of
the buffer when there is no delimiter (R168). -/
def Obligations.RdstrReadsOne : Prop :=
  (∀ rd : BitVec 5, decode (0x22#8 ++ 0#3 ++ rd ++ 0#16) = .ok (.rdstr rd)) ∧
  ∀ (s : State) (rd : BitVec 5), s.Ready →
    (∀ (f : Field) (rest : List Byte), fieldOk s.config f = true → s.remaining = fieldBytes f ++ rest →
      exec (.rdstr rd) s = .next
        { s with slots := s.slots.set rd.toNat (some f.1), cur := BitVec.ofNat 10 (s.cur.toNat + f.1.length + 1),
                 lastDelim := f.2, ldValid := true, recValid := false }) ∧
    ((∀ b ∈ s.remaining, isDelim s.config b = false) →
      exec (.rdstr rd) s = .next
        (({ s with cur := BitVec.ofNat 10 (s.cur.toNat + s.remaining.length) } : State).stop .malformedField 0x22#8
          false))

/-- RDOPT: one more string exactly when the latched delimiter is EXTRA_DELIM, else an absent slot (R170). -/
def Obligations.RdoptReadsWhenSignalled : Prop :=
  (∀ rd : BitVec 5, decode (0x23#8 ++ 0#3 ++ rd ++ 0#16) = .ok (.rdopt rd)) ∧
  ∀ (s : State) (rd : BitVec 5), s.Ready →
    (s.ldValid = true → s.lastDelim = extraDelimByte s.config →
      (∀ (f : Field) (rest : List Byte), fieldOk s.config f = true → s.remaining = fieldBytes f ++ rest →
        exec (.rdopt rd) s = .next
          { s with slots := s.slots.set rd.toNat (some f.1), cur := BitVec.ofNat 10 (s.cur.toNat + f.1.length + 1),
                   lastDelim := f.2, ldValid := true, recValid := false }) ∧
      ((∀ b ∈ s.remaining, isDelim s.config b = false) →
        exec (.rdopt rd) s = .next
          (({ s with cur := BitVec.ofNat 10 (s.cur.toNat + s.remaining.length) } : State).stop .malformedField
            0x23#8 false))) ∧
    (s.ldValid = false ∨ s.lastDelim ≠ extraDelimByte s.config →
      exec (.rdopt rd) s = .next { s with slots := s.slots.set rd.toNat none, recValid := false })

/-- RDRAW: exactly n bytes verbatim, or MalformedField with nothing consumed (R172). -/
def Obligations.RdrawCopiesBytes : Prop :=
  (∀ (rd : BitVec 5) (n : BitVec 16), decode (0x24#8 ++ 0#3 ++ rd ++ n) = .ok (.rdraw rd n)) ∧
  ∀ (s : State) (rd : BitVec 5) (n : BitVec 16), s.Ready →
    (s.cur.toNat + n.toNat ≤ s.dlen.toNat →
      exec (.rdraw rd n) s = .next
        { s with slots := s.slots.set rd.toNat (some (s.dbuf.readRange s.cur.toNat n.toNat)),
                 cur := BitVec.ofNat 10 (s.cur.toNat + n.toNat), recValid := false }) ∧
    (s.dlen.toNat < s.cur.toNat + n.toNat →
      exec (.rdraw rd n) s = .next (s.stop .malformedField 0x24#8 false))

/-- RDDEC2: two decimal digits of a byte below 100; MalformedField at the end; Unspecified, after the byte is consumed, for
100 and above (R174). -/
def Obligations.Rddec2RendersDigits : Prop :=
  (∀ rd : BitVec 5, decode (0x25#8 ++ 0#3 ++ rd ++ 0#16) = .ok (.rddec2 rd)) ∧
  ∀ (s : State) (rd : BitVec 5), s.Ready →
    (s.cur = s.dlen → exec (.rddec2 rd) s = .next (s.stop .malformedField 0x25#8 false)) ∧
    (s.cur.toNat < s.dlen.toNat → (s.dbuf.read s.cur.toNat).toNat < 100 →
      exec (.rddec2 rd) s = .next
        { s with slots := s.slots.set rd.toNat (some
                   [BitVec.ofNat 8 (0x30 + (s.dbuf.read s.cur.toNat).toNat / 10),
                    BitVec.ofNat 8 (0x30 + (s.dbuf.read s.cur.toNat).toNat % 10)]),
                 cur := BitVec.ofNat 10 (s.cur.toNat + 1), recValid := false }) ∧
    (s.cur.toNat < s.dlen.toNat → 100 ≤ (s.dbuf.read s.cur.toNat).toNat →
      exec (.rddec2 rd) s = .next
        (({ s with cur := BitVec.ofNat 10 (s.cur.toNat + 1) } : State).stop .unspecified 0x25#8 false))

/-- SKIP: the cursor moves n bytes, or MalformedField beyond the end (R175). -/
def Obligations.SkipAdvances : Prop :=
  (∀ n : BitVec 16, decode (0x26#8 ++ 0#8 ++ n) = .ok (.skip n)) ∧
  ∀ (s : State) (n : BitVec 16), s.Ready →
    (s.cur.toNat + n.toNat ≤ s.dlen.toNat →
      exec (.skip n) s = .next { s with cur := BitVec.ofNat 10 (s.cur.toNat + n.toNat), recValid := false }) ∧
    (s.dlen.toNat < s.cur.toNat + n.toNat → exec (.skip n) s = .next (s.stop .malformedField 0x26#8 false))

/-- NQLOAD: the queue becomes the nibbles of the bytes before the terminator, high nibble first, and the cursor passes them
and, with TERM_CONSUMED, the terminator; without a terminator MalformedField (R176, R72). -/
def Obligations.NqloadFillsQueue : Prop :=
  decode 0x27000000#32 = .ok .nqload ∧
  ∀ (s : State), s.Ready → s.nq.wf = true →
    (∀ (pre rest : List Byte), s.config.term ∉ pre → s.remaining = pre ++ s.config.term :: rest →
      ∃ t, exec .nqload s = .next t ∧
        t = { s with nq := t.nq, nqh := 0, nqt := BitVec.ofNat 11 (2 * pre.length),
                     cur := BitVec.ofNat 10 (s.cur.toNat + pre.length + if s.config.termConsumed = true then 1 else 0),
                     recValid := false } ∧
        t.queue = pre.flatMap (fun b => [b.extractLsb' 4 4, b.extractLsb' 0 4]) ∧
        ∀ a, 2 * pre.length ≤ a → t.nq.read a = s.nq.read a) ∧
    (s.config.term ∉ s.remaining → ∃ m, exec .nqload s = .next
        (({ s with nq := m, nqh := 0, nqt := BitVec.ofNat 11 (2 * s.remaining.length),
                   cur := BitVec.ofNat 10 (s.cur.toNat + s.remaining.length) } : State).stop .malformedField 0x27#8
          false) ∧
      m.readRange 0 (2 * s.remaining.length) =
        s.remaining.flatMap fun b => [b.extractLsb' 4 4, b.extractLsb' 0 4])

/-! ### The nibble decoder -/

/-- DATEG: the absence marker consumes one nibble and gives an absent slot; eight digits give ten characters; otherwise the
pops come first, so underflow wins over a nibble above 9 (R192, R193). -/
def Obligations.DategReadsGroup : Prop :=
  (∀ rd : BitVec 5, decode (0x30#8 ++ 0#3 ++ rd ++ 0#16) = .ok (.dateg rd)) ∧
  ∀ (s : State) (rd : BitVec 5), s.Ready →
    (∀ rest, s.queue = 10#4 :: rest →
      exec (.dateg rd) s = .next
        { s with slots := s.slots.set rd.toNat none, nqh := BitVec.ofNat 11 (s.nqh.toNat + 1), recValid := false }) ∧
    (∀ d0 d1 d2 d3 d4 d5 d6 d7 rest, s.queue = [d0, d1, d2, d3, d4, d5, d6, d7] ++ rest →
      (∀ d ∈ [d0, d1, d2, d3, d4, d5, d6, d7], d.toNat ≤ 9) →
      exec (.dateg rd) s = .next
        { s with slots := s.slots.set rd.toNat (some
                   [digitByte d0, digitByte d1, digitByte d2, digitByte d3, 0x2F#8, digitByte d4, digitByte d5, 0x2F#8,
                    digitByte d6, digitByte d7]),
                 nqh := BitVec.ofNat 11 (s.nqh.toNat + 8), recValid := false }) ∧
    (s.queue.head? ≠ some 10#4 → s.queue.length < 8 →
      exec (.dateg rd) s = .next
        (({ s with nqh := BitVec.ofNat 11 (s.nqh.toNat + s.queue.length) } : State).stop .malformedField 0x30#8
          false)) ∧
    (∀ ds rest, s.queue = ds ++ rest → ds.length = 8 → ds.head? ≠ some 10#4 → (∃ d ∈ ds, 9 < d.toNat) →
      exec (.dateg rd) s = .next
        (({ s with nqh := BitVec.ofNat 11 (s.nqh.toNat + 8) } : State).stop .unspecified 0x30#8 false))

/-- DATEL: exactly `count` groups are read; the present ones are packed from rd upward, the rest absent. A group that
underflows raises MalformedField, one with a nibble above 9 Unspecified (R195, R193). -/
def Obligations.DatelReadsGroups : Prop :=
  (∀ (rd : BitVec 5) (count : BitVec 16), decode (0x31#8 ++ 0#3 ++ rd ++ count) = .ok (.datel rd count)) ∧
  ∀ (s : State) (rd : BitVec 5) (count : BitVec 16) (gs : List (Option (List Nibble))) (rest : List Nibble), s.Ready →
    rd.toNat + count.toNat ≤ 32 → (∀ g ∈ gs, groupOk g = true) → s.queue = gs.flatMap groupNibbles ++ rest →
    (gs.length = count.toNat →
      ∃ t, exec (.datel rd count) s = .next t ∧
        t = { s with slots := t.slots, nqh := BitVec.ofNat 11 (s.nqh.toNat + (gs.flatMap groupNibbles).length),
                     lcnt := BitVec.ofNat 6 (gs.filterMap id).length, recValid := false } ∧
        ∀ j, t.slot j = if rd.toNat ≤ j ∧ j < rd.toNat + count.toNat
          then (((gs.filterMap id).map fun ds => dateText (ds.map digitByte)))[j - rd.toNat]? else s.slot j) ∧
    (gs.length < count.toNat → rest.head? ≠ some 10#4 → rest.length < 8 →
      exec (.datel rd count) s = .next
        (({ s with nqh := BitVec.ofNat 11 (s.nqh.toNat + s.queue.length) } : State).stop .malformedField 0x31#8
          false)) ∧
    (gs.length < count.toNat → rest.head? ≠ some 10#4 → 8 ≤ rest.length → (∃ d ∈ rest.take 8, 9 < d.toNat) →
      exec (.datel rd count) s = .next
        (({ s with nqh := BitVec.ofNat 11 (s.nqh.toNat + (gs.flatMap groupNibbles).length + 8) } : State).stop
          .unspecified 0x31#8 false))

/-- CODE: `width` nibbles as digit characters; MalformedField on underflow, else Unspecified on a nibble above 9 (R196). -/
def Obligations.CodeRendersDigits : Prop :=
  (∀ (rd : BitVec 5) (width : BitVec 16), decode (0x32#8 ++ 0#3 ++ rd ++ width) = .ok (.code rd width)) ∧
  ∀ (s : State) (rd : BitVec 5) (width : BitVec 16), s.Ready → width.toNat ≤ 768 →
    (∀ ds rest, s.queue = ds ++ rest → ds.length = width.toNat → (∀ d ∈ ds, d.toNat ≤ 9) →
      exec (.code rd width) s = .next
        { s with slots := s.slots.set rd.toNat (some (ds.map digitByte)),
                 nqh := BitVec.ofNat 11 (s.nqh.toNat + width.toNat), recValid := false }) ∧
    (∀ ds rest, s.queue = ds ++ rest → ds.length = width.toNat → (∃ d ∈ ds, 9 < d.toNat) →
      exec (.code rd width) s = .next
        (({ s with nqh := BitVec.ofNat 11 (s.nqh.toNat + width.toNat) } : State).stop .unspecified 0x32#8 false)) ∧
    (s.queue.length < width.toNat →
      exec (.code rd width) s = .next
        (({ s with nqh := BitVec.ofNat 11 (s.nqh.toNat + s.queue.length) } : State).stop .malformedField 0x32#8 false))

/-- GENDER: code "01" gives the byte 01 (male), every other two-digit code the byte 00 (R198). -/
def Obligations.GenderMapsCode : Prop :=
  (∀ rd : BitVec 5, decode (0x33#8 ++ 0#3 ++ rd ++ 0#16) = .ok (.gender rd)) ∧
  ∀ (s : State) (rd : BitVec 5), s.Ready →
    (∀ a b rest, s.queue = a :: b :: rest → a.toNat ≤ 9 → b.toNat ≤ 9 →
      exec (.gender rd) s = .next
        { s with slots := s.slots.set rd.toNat (some [if a = 0 ∧ b = 1 then 0x01#8 else 0x00#8]),
                 nqh := BitVec.ofNat 11 (s.nqh.toNat + 2), recValid := false }) ∧
    (∀ a b rest, s.queue = a :: b :: rest → 9 < a.toNat ∨ 9 < b.toNat →
      exec (.gender rd) s = .next
        (({ s with nqh := BitVec.ofNat 11 (s.nqh.toNat + 2) } : State).stop .unspecified 0x33#8 false)) ∧
    (s.queue.length < 2 →
      exec (.gender rd) s = .next
        (({ s with nqh := BitVec.ofNat 11 (s.nqh.toNat + s.queue.length) } : State).stop .malformedField 0x33#8 false))

/-! ### RUN -/

/-- The microprogram's 27 command words (R215). -/
def Obligations.MicroprogramWords : Prop :=
  microCommands.map encode =
    [0x10000000#32, 0x11000000#32, 0x1C000000#32, 0x20000000#32, 0x21000003#32, 0x22030000#32, 0x22040000#32,
     0x23050000#32, 0x22060000#32, 0x22070000#32, 0x21080003#32, 0x220B0000#32, 0x240C000D#32, 0x250D0000#32,
     0x27000000#32, 0x310E0004#32, 0x32120002#32, 0x30130000#32, 0x32140002#32, 0x30150000#32, 0x30160000#32,
     0x30170000#32, 0x33180000#32, 0x26000003#32, 0x24190001#32, 0x26000002#32, 0x241A0001#32]

/-- RUN decodes the record: when the six blocks decrypt, by x^e mod n, to a plaintext in the field schema, RUN completes with
RECVALID = 1, UPC = 27 and that plaintext's fields in S0 to S26 (R214, R215, R216, R218; DOC §8's round trip). The canonical
form of DBUF and NQ is an invariant (`State.Inv`). -/
def Obligations.RunDecodesPlaintext : Prop :=
  ∀ (s : State) (v : Version) (large trail : KeyParams) (p : Plaintext), s.Ready → s.rawLen.toNat = 720 →
    s.dbuf.wf = true → s.nq.wf = true → versionOf s.config (s.raw.readRange 0 4) = some v →
    keyOf s.config v .large = some large → keyOf s.config v .trail = some trail →
    plainBuffer s.config s.raw large trail = p.bytes s.config → p.Fits s.config →
    ∃ t, exec .run s = .next t ∧ t.slots.toList = p.slots ∧ t.recValid = true ∧ t.upc = 27#5 ∧ t.err = none ∧
      t.einfo = s.einfo ∧ t.busy = false ∧ t.ver = v ∧ t.dlen.toNat = (p.bytes s.config).length ∧ t.raw = s.raw ∧
      t.rawLen = s.rawLen ∧ t.ssel = s.ssel

/-- RUN's first checks in order: a length other than 720 stops at UPC 0 whatever the prefix, an unknown prefix at UPC 1
(R214, R241). -/
def Obligations.RunChecksLengthThenVersion : Prop :=
  ∀ s : State, s.Ready →
    (s.rawLen.toNat ≠ 720 → exec .run s = .next (s.clearCall.stop .insufficientBytes 0x10#8 true)) ∧
    (s.rawLen.toNat = 720 → versionOf s.config (s.raw.readRange 0 4) = none →
      exec .run s = .next (({ s.clearCall with upc := 1#5 } : State).stop .unknownVersion 0x11#8 true)) ∧
    s.clearCall =
      { s with ver := .none, mx := 0, mn := 0, me := 0, mr := 0, mrLen := 0, dlen := 0, cur := 0, lastDelim := 0,
               ldValid := false, nqh := 0, nqt := 0, lcnt := 0, slots := Vector.replicate 32 none, recValid := false,
               upc := 0 }

/-- Issuing the microprogram's words one by one yields the same state as RUN, but for RECVALID and UPC; when entry n is the
first that stops, RUN stops with the same error and state, but for UPC = n, EUPC = n and ERUN = 1 in EINFO, EOP being entry
n's opcode and ECUR the cursor (R249, R214, R36). -/
def Obligations.RunIsSteppedMicroprogram : Prop :=
  ∀ s : State, s.Ready →
    ((execSeq microCommands s.clearCall).err = none →
      exec .run s = .next { execSeq microCommands s.clearCall with upc := 27#5, recValid := true }) ∧
    ((execSeq microCommands s.clearCall).err ≠ none →
      ∃ n i, n < 27 ∧ microCommands[n]? = some i ∧ (execSeq (microCommands.take n) s.clearCall).err = none ∧
        (execSeq (microCommands.take (n + 1)) s.clearCall).err ≠ none ∧
        exec .run s = .next
          { execSeq microCommands s.clearCall with
            upc := BitVec.ofNat 5 n
            einfo := packEinfo i.opcode (BitVec.ofNat 5 n) (execSeq microCommands s.clearCall).cur true })

/-- A RUN has two outcomes and no third: success with ERR = 0, UPC = 27 and RECVALID = 1, or failure with ERR not 0, UPC the
index of a micro-command, every slot absent, and EINFO made of that micro-command's opcode, UPC, CUR and ERUN = 1 (R221, R214,
R36). That this is the first micro-command that fails is RunIsSteppedMicroprogram. -/
def Obligations.RunHasTwoOutcomes : Prop :=
  ∀ s t : State, s.Ready → exec .run s = .next t →
    (t.err = none ∧ t.upc = 27#5 ∧ t.recValid = true) ∨
    (t.err ≠ none ∧ t.upc.toNat < 27 ∧ t.recValid = false ∧ t.slots = Vector.replicate 32 none ∧
      ∃ i, microCommands[t.upc.toNat]? = some i ∧ t.einfo = packEinfo i.opcode t.upc t.cur true)

/-- The result of RUN is a function of RAW and RAWLEN (and the parameters) alone: from states that meet the invariants, what
the other registers, the slots and the delimiter latch held before does not matter (R213; that EINFO is 0 whenever RUN is
accepted is an invariant). DBUF and NQ differ at most where nothing reads them. -/
def Obligations.RunDependsOnInputOnly : Prop :=
  ∀ s s' t t' : State, s.Inv → s'.Inv → s.err = none → s'.err = none →
    s.raw = s'.raw → s.rawLen = s'.rawLen → s.config = s'.config →
    exec .run s = .next t → exec .run s' = .next t' →
    t' = { t with dbuf := t'.dbuf, nq := t'.nq, ssel := s'.ssel, resetLine := s'.resetLine, pending := s'.pending,
                  response := s'.response } ∧
    t'.dbuf.readRange 0 t'.dlen.toNat = t.dbuf.readRange 0 t.dlen.toNat ∧ t'.queue = t.queue

/-! ### Frames and whole-machine rules -/

/-- No command but CLR writes RAW, RAWLEN or SSEL, and none touches the parameters or the host's side (R23, R24, R39). -/
def Obligations.CommandsKeepInput : Prop :=
  ∀ (i : Instr) (s t : State), exec i s = .next t →
    t.config = s.config ∧ t.resetLine = s.resetLine ∧ t.pending = s.pending ∧ t.response = s.response ∧
    (i ≠ .clr → t.raw = s.raw ∧ t.rawLen = s.rawLen ∧ t.ssel = s.ssel)

/-- Frame of CHKLEN, VERDET, LDKEY, LDBLK, MODEXP, APPEND, DECBLK and ASSEMBLE, on completion and on a stop: each register is
written only by the commands the rules name, and every byte of DBUF below DLEN and beyond the new DLEN reads as before unless
ASSEMBLE starts a new buffer (R25, R27, R28, R29, R77, R146). -/
def Obligations.MeuFrame : Prop :=
  ∀ (i : Instr) (s t : State), isMeu i = true → exec i s = .next t →
    t.raw = s.raw ∧ t.rawLen = s.rawLen ∧ t.nq = s.nq ∧ t.lcnt = s.lcnt ∧ t.upc = s.upc ∧ t.ssel = s.ssel ∧
    (i ≠ .verdet → t.ver = s.ver) ∧
    (i = .chklen ∨ i = .verdet ∨ i = .modexp ∨ i = .append → t.mx = s.mx ∧ t.mn = s.mn ∧ t.me = s.me) ∧
    (∀ cls, i = .ldkey cls → t.mx = s.mx) ∧ (∀ k, i = .ldblk k → t.mn = s.mn ∧ t.me = s.me) ∧
    (i = .chklen ∨ i = .verdet ∨ i = .append ∨ (∃ c, i = .ldkey c) ∨ (∃ k, i = .ldblk k) →
      t.mr = s.mr ∧ t.mrLen = s.mrLen) ∧
    (i ≠ .append → (∀ k, i ≠ .decblk k) → i ≠ .assemble → t.dbuf = s.dbuf ∧ t.dlen = s.dlen) ∧
    (i ≠ .assemble → t.cur = s.cur ∧ t.nqh = s.nqh ∧ t.nqt = s.nqt ∧ t.lastDelim = s.lastDelim ∧
      t.ldValid = s.ldValid ∧ s.dlen.toNat ≤ t.dlen.toNat ∧
      ∀ a, a < s.dlen.toNat ∨ t.dlen.toNat ≤ a → t.dbuf.read a = s.dbuf.read a) ∧
    (i = .assemble → ∀ a, t.dlen.toNat ≤ a → t.dbuf.read a = s.dbuf.read a)

/-- Frame of SEEK, RDSTRS, RDSTR, RDOPT, RDRAW, RDDEC2, SKIP and NQLOAD, on completion and on a stop: every byte of DBUF and
RAW and every MEU register is unchanged, and the queue, LCNT and the delimiter latch change only in the commands that write
them (R160, R178, R40). -/
def Obligations.ScannerFrame : Prop :=
  ∀ (i : Instr) (s t : State), isScanner i = true → exec i s = .next t →
    t.raw = s.raw ∧ t.rawLen = s.rawLen ∧ t.ver = s.ver ∧ t.mx = s.mx ∧ t.mn = s.mn ∧ t.me = s.me ∧ t.mr = s.mr ∧
    t.mrLen = s.mrLen ∧ t.dbuf = s.dbuf ∧ t.dlen = s.dlen ∧ t.upc = s.upc ∧ t.ssel = s.ssel ∧
    (i ≠ .nqload → t.nq = s.nq ∧ t.nqh = s.nqh ∧ t.nqt = s.nqt) ∧
    ((∀ rd n, i ≠ .rdstrs rd n) → t.lcnt = s.lcnt) ∧
    ((∀ rd n, i ≠ .rdstrs rd n) → (∀ rd, i ≠ .rdstr rd) → (∀ rd, i ≠ .rdopt rd) →
      t.lastDelim = s.lastDelim ∧ t.ldValid = s.ldValid)

/-- Frame of DATEG, DATEL, CODE and GENDER, on completion and on a stop: none touches DBUF, CUR or anything but its slots,
NQH and, for DATEL, LCNT (R191, R32). -/
def Obligations.NibbleFrame : Prop :=
  ∀ (i : Instr) (s t : State), isNibble i = true → exec i s = .next t →
    t.raw = s.raw ∧ t.rawLen = s.rawLen ∧ t.ver = s.ver ∧ t.mx = s.mx ∧ t.mn = s.mn ∧ t.me = s.me ∧ t.mr = s.mr ∧
    t.mrLen = s.mrLen ∧ t.dbuf = s.dbuf ∧ t.dlen = s.dlen ∧ t.cur = s.cur ∧ t.lastDelim = s.lastDelim ∧
    t.ldValid = s.ldValid ∧ t.nq = s.nq ∧ t.nqt = s.nqt ∧ t.upc = s.upc ∧ t.ssel = s.ssel ∧
    ((∀ rd n, i ≠ .datel rd n) → t.lcnt = s.lcnt)

/-- A slot is written only by the command that names it; a stop makes all 32 absent (R22, R236). -/
def Obligations.SlotWrites : Prop :=
  ∀ (i : Instr) (s t : State), exec i s = .next t →
    (∀ j, t.err = none → writesSlot i j = false → t.slot j = s.slot j) ∧
    (s.err = none → t.err ≠ none → ∀ j, t.slot j = none)

/-- The cursor never moves back but by SEEK, ASSEMBLE, CLR and RUN (R30). -/
def Obligations.CursorNeverRewound : Prop :=
  ∀ (i : Instr) (s t : State), i ≠ .seek → i ≠ .assemble → i ≠ .clr → i ≠ .run → exec i s = .next t →
    s.cur.toNat ≤ t.cur.toNat

/-- RECVALID after an accepted command: NOP leaves it, an error-free RUN sets it, and every other command and every stop
clears it (R37). -/
def Obligations.RecordValidRule : Prop :=
  ∀ (i : Instr) (s t : State), s.Ready → exec i s = .next t →
    (i = .nop → t.recValid = s.recValid) ∧
    (i ≠ .nop → (t.recValid = true ↔ i = .run ∧ t.err = none))

/-- ERR is written only by a stop and cleared only by CLR and reset: in the error state no step but a CLR and a released reset
changes ERR or EINFO (R35, R36, R242). -/
def Obligations.ErrorLeftOnlyByClrOrReset : Prop :=
  ∀ (s t : State) (rest : List HostAction) (a : HostAction), s.err ≠ none → s.busy = false →
    s.pending = a :: rest → a ≠ HostAction.command 0x01000000#32 → a ≠ .releaseReset → step s = .next t →
    t.err = s.err ∧ t.einfo = s.einfo

/-! ### The parameters -/

/-- A parameter set that violates a constraint of R11 is refused by name; one that meets them all sets the engine up in the
state after reset (R263, I2), and its parameters are the set as it was given. The parameters of every state meet R11. That the
refusal stands in `State.configured`, before the first step, and that State holds legal sets alone is the model's choice
(DESIGN CHOICE, log entry 1). -/
def Obligations.IllegalParametersRefused : Prop :=
  (∀ p : ParameterSet,
    (p.magicV1 = p.magicV2 ∨ p.delimA = p.delimB ∨ p.keyV1Large.n.toNat < 1 ∨ p.keyV1Trail.n.toNat < 1 ∨
        p.keyV2Large.n.toNat < 1 ∨ p.keyV2Trail.n.toNat < 1 →
      State.configured p = .refused .illegalParameters) ∧
    (p.magicV1 ≠ p.magicV2 → p.delimA ≠ p.delimB → 1 ≤ p.keyV1Large.n.toNat → 1 ≤ p.keyV1Trail.n.toNat →
      1 ≤ p.keyV2Large.n.toNat → 1 ≤ p.keyV2Trail.n.toNat →
      ∃ c : Config, c.toParameterSet = p ∧ State.configured p = .next { State.reset with config := c })) ∧
  ∀ s : State, s.config.magicV1 ≠ s.config.magicV2 ∧ s.config.delimA ≠ s.config.delimB ∧
      (extraDelimByte s.config = s.config.delimA ∨ extraDelimByte s.config = s.config.delimB) ∧
      ∀ key ∈ [s.config.keyV1Large, s.config.keyV1Trail, s.config.keyV2Large, s.config.keyV2Trail],
        1 ≤ key.n.toNat ∧ key.n.toNat < 2 ^ 1024 ∧ key.e.toNat < 2 ^ 1024
end

