-- ==== Sys2Proof/Laws/Config.lean ====
section
/-! SUPPORT. What the constraints of R11 say, what setting the engine up with a parameter set can do, and the moduli the
KeyStore holds. -/

namespace Sys2Proof

/-- The constraints of R11, one by one. -/
theorem ParameterSet.legal_iff (p : ParameterSet) :
    p.legal = true ↔ p.magicV1 ≠ p.magicV2 ∧ p.delimA ≠ p.delimB ∧ p.keyV1Large.n ≠ 0 ∧ p.keyV1Trail.n ≠ 0 ∧
      p.keyV2Large.n ≠ 0 ∧ p.keyV2Trail.n ≠ 0 := by
  simp [ParameterSet.legal, and_assoc]

namespace Machine

/-- A legal set is taken as it is. -/
theorem configured_legal (c : Config) : State.configured c.toParameterSet = .next { State.reset with config := c } :=
  dif_pos c.isLegal

/-- An illegal set is refused. -/
theorem configured_illegal {p : ParameterSet} (h : p.legal ≠ true) : State.configured p = .refused .illegalParameters :=
  dif_neg h

/-- Every modulus of the KeyStore is at least 1. -/
theorem keyOf_modulus {c : Config} {v : Version} {cls : BlockClass} {key : KeyParams} (h : keyOf c v cls = some key) :
    key.n ≠ 0 := by
  obtain ⟨_, _, h1, h2, h3, h4⟩ := c.legal_iff.mp c.isLegal
  cases v <;> cases cls <;> cases h <;> assumption

end Machine

end Sys2Proof
end

