-- ==== Sys2Proof/Laws/State.lean ====
section
/-! SUPPORT. What each named update of the state does to each field: one lemma per field per update, true by rfl. -/

namespace Sys2Proof.Machine

variable (s : State)

/-! `setSlot` -/

@[simp] theorem State.setSlot_raw (i : Nat) (v : Slot) : (s.setSlot i v).raw = s.raw := rfl
@[simp] theorem State.setSlot_rawLen (i : Nat) (v : Slot) : (s.setSlot i v).rawLen = s.rawLen := rfl
@[simp] theorem State.setSlot_ver (i : Nat) (v : Slot) : (s.setSlot i v).ver = s.ver := rfl
@[simp] theorem State.setSlot_mx (i : Nat) (v : Slot) : (s.setSlot i v).mx = s.mx := rfl
@[simp] theorem State.setSlot_mn (i : Nat) (v : Slot) : (s.setSlot i v).mn = s.mn := rfl
@[simp] theorem State.setSlot_me (i : Nat) (v : Slot) : (s.setSlot i v).me = s.me := rfl
@[simp] theorem State.setSlot_mr (i : Nat) (v : Slot) : (s.setSlot i v).mr = s.mr := rfl
@[simp] theorem State.setSlot_mrLen (i : Nat) (v : Slot) : (s.setSlot i v).mrLen = s.mrLen := rfl
@[simp] theorem State.setSlot_dbuf (i : Nat) (v : Slot) : (s.setSlot i v).dbuf = s.dbuf := rfl
@[simp] theorem State.setSlot_dlen (i : Nat) (v : Slot) : (s.setSlot i v).dlen = s.dlen := rfl
@[simp] theorem State.setSlot_cur (i : Nat) (v : Slot) : (s.setSlot i v).cur = s.cur := rfl
@[simp] theorem State.setSlot_lastDelim (i : Nat) (v : Slot) : (s.setSlot i v).lastDelim = s.lastDelim := rfl
@[simp] theorem State.setSlot_ldValid (i : Nat) (v : Slot) : (s.setSlot i v).ldValid = s.ldValid := rfl
@[simp] theorem State.setSlot_nq (i : Nat) (v : Slot) : (s.setSlot i v).nq = s.nq := rfl
@[simp] theorem State.setSlot_nqh (i : Nat) (v : Slot) : (s.setSlot i v).nqh = s.nqh := rfl
@[simp] theorem State.setSlot_nqt (i : Nat) (v : Slot) : (s.setSlot i v).nqt = s.nqt := rfl
@[simp] theorem State.setSlot_lcnt (i : Nat) (v : Slot) : (s.setSlot i v).lcnt = s.lcnt := rfl
@[simp] theorem State.setSlot_slots (i : Nat) (v : Slot) : (s.setSlot i v).slots = s.slots.setIfInBounds i v := rfl
@[simp] theorem State.setSlot_upc (i : Nat) (v : Slot) : (s.setSlot i v).upc = s.upc := rfl
@[simp] theorem State.setSlot_err (i : Nat) (v : Slot) : (s.setSlot i v).err = s.err := rfl
@[simp] theorem State.setSlot_einfo (i : Nat) (v : Slot) : (s.setSlot i v).einfo = s.einfo := rfl
@[simp] theorem State.setSlot_recValid (i : Nat) (v : Slot) : (s.setSlot i v).recValid = s.recValid := rfl
@[simp] theorem State.setSlot_busy (i : Nat) (v : Slot) : (s.setSlot i v).busy = s.busy := rfl
@[simp] theorem State.setSlot_ssel (i : Nat) (v : Slot) : (s.setSlot i v).ssel = s.ssel := rfl
@[simp] theorem State.setSlot_config (i : Nat) (v : Slot) : (s.setSlot i v).config = s.config := rfl
@[simp] theorem State.setSlot_resetLine (i : Nat) (v : Slot) : (s.setSlot i v).resetLine = s.resetLine := rfl
@[simp] theorem State.setSlot_pending (i : Nat) (v : Slot) : (s.setSlot i v).pending = s.pending := rfl
@[simp] theorem State.setSlot_response (i : Nat) (v : Slot) : (s.setSlot i v).response = s.response := rfl

/-! `advance` -/

@[simp] theorem State.advance_raw (n : Nat) : (s.advance n).raw = s.raw := rfl
@[simp] theorem State.advance_rawLen (n : Nat) : (s.advance n).rawLen = s.rawLen := rfl
@[simp] theorem State.advance_ver (n : Nat) : (s.advance n).ver = s.ver := rfl
@[simp] theorem State.advance_mx (n : Nat) : (s.advance n).mx = s.mx := rfl
@[simp] theorem State.advance_mn (n : Nat) : (s.advance n).mn = s.mn := rfl
@[simp] theorem State.advance_me (n : Nat) : (s.advance n).me = s.me := rfl
@[simp] theorem State.advance_mr (n : Nat) : (s.advance n).mr = s.mr := rfl
@[simp] theorem State.advance_mrLen (n : Nat) : (s.advance n).mrLen = s.mrLen := rfl
@[simp] theorem State.advance_dbuf (n : Nat) : (s.advance n).dbuf = s.dbuf := rfl
@[simp] theorem State.advance_dlen (n : Nat) : (s.advance n).dlen = s.dlen := rfl
@[simp] theorem State.advance_cur (n : Nat) : (s.advance n).cur = BitVec.ofNat 10 (s.cur.toNat + n) := rfl
@[simp] theorem State.advance_lastDelim (n : Nat) : (s.advance n).lastDelim = s.lastDelim := rfl
@[simp] theorem State.advance_ldValid (n : Nat) : (s.advance n).ldValid = s.ldValid := rfl
@[simp] theorem State.advance_nq (n : Nat) : (s.advance n).nq = s.nq := rfl
@[simp] theorem State.advance_nqh (n : Nat) : (s.advance n).nqh = s.nqh := rfl
@[simp] theorem State.advance_nqt (n : Nat) : (s.advance n).nqt = s.nqt := rfl
@[simp] theorem State.advance_lcnt (n : Nat) : (s.advance n).lcnt = s.lcnt := rfl
@[simp] theorem State.advance_slots (n : Nat) : (s.advance n).slots = s.slots := rfl
@[simp] theorem State.advance_upc (n : Nat) : (s.advance n).upc = s.upc := rfl
@[simp] theorem State.advance_err (n : Nat) : (s.advance n).err = s.err := rfl
@[simp] theorem State.advance_einfo (n : Nat) : (s.advance n).einfo = s.einfo := rfl
@[simp] theorem State.advance_recValid (n : Nat) : (s.advance n).recValid = s.recValid := rfl
@[simp] theorem State.advance_busy (n : Nat) : (s.advance n).busy = s.busy := rfl
@[simp] theorem State.advance_ssel (n : Nat) : (s.advance n).ssel = s.ssel := rfl
@[simp] theorem State.advance_config (n : Nat) : (s.advance n).config = s.config := rfl
@[simp] theorem State.advance_resetLine (n : Nat) : (s.advance n).resetLine = s.resetLine := rfl
@[simp] theorem State.advance_pending (n : Nat) : (s.advance n).pending = s.pending := rfl
@[simp] theorem State.advance_response (n : Nat) : (s.advance n).response = s.response := rfl

/-! `latch` -/

@[simp] theorem State.latch_raw (b : Byte) : (s.latch b).raw = s.raw := rfl
@[simp] theorem State.latch_rawLen (b : Byte) : (s.latch b).rawLen = s.rawLen := rfl
@[simp] theorem State.latch_ver (b : Byte) : (s.latch b).ver = s.ver := rfl
@[simp] theorem State.latch_mx (b : Byte) : (s.latch b).mx = s.mx := rfl
@[simp] theorem State.latch_mn (b : Byte) : (s.latch b).mn = s.mn := rfl
@[simp] theorem State.latch_me (b : Byte) : (s.latch b).me = s.me := rfl
@[simp] theorem State.latch_mr (b : Byte) : (s.latch b).mr = s.mr := rfl
@[simp] theorem State.latch_mrLen (b : Byte) : (s.latch b).mrLen = s.mrLen := rfl
@[simp] theorem State.latch_dbuf (b : Byte) : (s.latch b).dbuf = s.dbuf := rfl
@[simp] theorem State.latch_dlen (b : Byte) : (s.latch b).dlen = s.dlen := rfl
@[simp] theorem State.latch_cur (b : Byte) : (s.latch b).cur = s.cur := rfl
@[simp] theorem State.latch_lastDelim (b : Byte) : (s.latch b).lastDelim = b := rfl
@[simp] theorem State.latch_ldValid (b : Byte) : (s.latch b).ldValid = true := rfl
@[simp] theorem State.latch_nq (b : Byte) : (s.latch b).nq = s.nq := rfl
@[simp] theorem State.latch_nqh (b : Byte) : (s.latch b).nqh = s.nqh := rfl
@[simp] theorem State.latch_nqt (b : Byte) : (s.latch b).nqt = s.nqt := rfl
@[simp] theorem State.latch_lcnt (b : Byte) : (s.latch b).lcnt = s.lcnt := rfl
@[simp] theorem State.latch_slots (b : Byte) : (s.latch b).slots = s.slots := rfl
@[simp] theorem State.latch_upc (b : Byte) : (s.latch b).upc = s.upc := rfl
@[simp] theorem State.latch_err (b : Byte) : (s.latch b).err = s.err := rfl
@[simp] theorem State.latch_einfo (b : Byte) : (s.latch b).einfo = s.einfo := rfl
@[simp] theorem State.latch_recValid (b : Byte) : (s.latch b).recValid = s.recValid := rfl
@[simp] theorem State.latch_busy (b : Byte) : (s.latch b).busy = s.busy := rfl
@[simp] theorem State.latch_ssel (b : Byte) : (s.latch b).ssel = s.ssel := rfl
@[simp] theorem State.latch_config (b : Byte) : (s.latch b).config = s.config := rfl
@[simp] theorem State.latch_resetLine (b : Byte) : (s.latch b).resetLine = s.resetLine := rfl
@[simp] theorem State.latch_pending (b : Byte) : (s.latch b).pending = s.pending := rfl
@[simp] theorem State.latch_response (b : Byte) : (s.latch b).response = s.response := rfl

/-! `stop` -/

@[simp] theorem State.stop_raw (k : ErrorKind) (eop : Byte) (r : Bool) : (s.stop k eop r).raw = s.raw := rfl
@[simp] theorem State.stop_rawLen (k : ErrorKind) (eop : Byte) (r : Bool) : (s.stop k eop r).rawLen = s.rawLen := rfl
@[simp] theorem State.stop_ver (k : ErrorKind) (eop : Byte) (r : Bool) : (s.stop k eop r).ver = s.ver := rfl
@[simp] theorem State.stop_mx (k : ErrorKind) (eop : Byte) (r : Bool) : (s.stop k eop r).mx = s.mx := rfl
@[simp] theorem State.stop_mn (k : ErrorKind) (eop : Byte) (r : Bool) : (s.stop k eop r).mn = s.mn := rfl
@[simp] theorem State.stop_me (k : ErrorKind) (eop : Byte) (r : Bool) : (s.stop k eop r).me = s.me := rfl
@[simp] theorem State.stop_mr (k : ErrorKind) (eop : Byte) (r : Bool) : (s.stop k eop r).mr = s.mr := rfl
@[simp] theorem State.stop_mrLen (k : ErrorKind) (eop : Byte) (r : Bool) : (s.stop k eop r).mrLen = s.mrLen := rfl
@[simp] theorem State.stop_dbuf (k : ErrorKind) (eop : Byte) (r : Bool) : (s.stop k eop r).dbuf = s.dbuf := rfl
@[simp] theorem State.stop_dlen (k : ErrorKind) (eop : Byte) (r : Bool) : (s.stop k eop r).dlen = s.dlen := rfl
@[simp] theorem State.stop_cur (k : ErrorKind) (eop : Byte) (r : Bool) : (s.stop k eop r).cur = s.cur := rfl
@[simp] theorem State.stop_lastDelim (k : ErrorKind) (eop : Byte) (r : Bool) : (s.stop k eop r).lastDelim = s.lastDelim := rfl
@[simp] theorem State.stop_ldValid (k : ErrorKind) (eop : Byte) (r : Bool) : (s.stop k eop r).ldValid = s.ldValid := rfl
@[simp] theorem State.stop_nq (k : ErrorKind) (eop : Byte) (r : Bool) : (s.stop k eop r).nq = s.nq := rfl
@[simp] theorem State.stop_nqh (k : ErrorKind) (eop : Byte) (r : Bool) : (s.stop k eop r).nqh = s.nqh := rfl
@[simp] theorem State.stop_nqt (k : ErrorKind) (eop : Byte) (r : Bool) : (s.stop k eop r).nqt = s.nqt := rfl
@[simp] theorem State.stop_lcnt (k : ErrorKind) (eop : Byte) (r : Bool) : (s.stop k eop r).lcnt = s.lcnt := rfl
@[simp] theorem State.stop_slots (k : ErrorKind) (eop : Byte) (r : Bool) : (s.stop k eop r).slots = noSlots := rfl
@[simp] theorem State.stop_upc (k : ErrorKind) (eop : Byte) (r : Bool) : (s.stop k eop r).upc = s.upc := rfl
@[simp] theorem State.stop_err (k : ErrorKind) (eop : Byte) (r : Bool) : (s.stop k eop r).err = some k := rfl
@[simp] theorem State.stop_einfo (k : ErrorKind) (eop : Byte) (r : Bool) : (s.stop k eop r).einfo = packEinfo eop s.upc s.cur r := rfl
@[simp] theorem State.stop_recValid (k : ErrorKind) (eop : Byte) (r : Bool) : (s.stop k eop r).recValid = false := rfl
@[simp] theorem State.stop_busy (k : ErrorKind) (eop : Byte) (r : Bool) : (s.stop k eop r).busy = false := rfl
@[simp] theorem State.stop_ssel (k : ErrorKind) (eop : Byte) (r : Bool) : (s.stop k eop r).ssel = s.ssel := rfl
@[simp] theorem State.stop_config (k : ErrorKind) (eop : Byte) (r : Bool) : (s.stop k eop r).config = s.config := rfl
@[simp] theorem State.stop_resetLine (k : ErrorKind) (eop : Byte) (r : Bool) : (s.stop k eop r).resetLine = s.resetLine := rfl
@[simp] theorem State.stop_pending (k : ErrorKind) (eop : Byte) (r : Bool) : (s.stop k eop r).pending = s.pending := rfl
@[simp] theorem State.stop_response (k : ErrorKind) (eop : Byte) (r : Bool) : (s.stop k eop r).response = s.response := rfl

/-! `accepted` -/

@[simp] theorem State.accepted_raw : (s.accepted).raw = s.raw := rfl
@[simp] theorem State.accepted_rawLen : (s.accepted).rawLen = s.rawLen := rfl
@[simp] theorem State.accepted_ver : (s.accepted).ver = s.ver := rfl
@[simp] theorem State.accepted_mx : (s.accepted).mx = s.mx := rfl
@[simp] theorem State.accepted_mn : (s.accepted).mn = s.mn := rfl
@[simp] theorem State.accepted_me : (s.accepted).me = s.me := rfl
@[simp] theorem State.accepted_mr : (s.accepted).mr = s.mr := rfl
@[simp] theorem State.accepted_mrLen : (s.accepted).mrLen = s.mrLen := rfl
@[simp] theorem State.accepted_dbuf : (s.accepted).dbuf = s.dbuf := rfl
@[simp] theorem State.accepted_dlen : (s.accepted).dlen = s.dlen := rfl
@[simp] theorem State.accepted_cur : (s.accepted).cur = s.cur := rfl
@[simp] theorem State.accepted_lastDelim : (s.accepted).lastDelim = s.lastDelim := rfl
@[simp] theorem State.accepted_ldValid : (s.accepted).ldValid = s.ldValid := rfl
@[simp] theorem State.accepted_nq : (s.accepted).nq = s.nq := rfl
@[simp] theorem State.accepted_nqh : (s.accepted).nqh = s.nqh := rfl
@[simp] theorem State.accepted_nqt : (s.accepted).nqt = s.nqt := rfl
@[simp] theorem State.accepted_lcnt : (s.accepted).lcnt = s.lcnt := rfl
@[simp] theorem State.accepted_slots : (s.accepted).slots = s.slots := rfl
@[simp] theorem State.accepted_upc : (s.accepted).upc = s.upc := rfl
@[simp] theorem State.accepted_err : (s.accepted).err = s.err := rfl
@[simp] theorem State.accepted_einfo : (s.accepted).einfo = s.einfo := rfl
@[simp] theorem State.accepted_recValid : (s.accepted).recValid = false := rfl
@[simp] theorem State.accepted_busy : (s.accepted).busy = s.busy := rfl
@[simp] theorem State.accepted_ssel : (s.accepted).ssel = s.ssel := rfl
@[simp] theorem State.accepted_config : (s.accepted).config = s.config := rfl
@[simp] theorem State.accepted_resetLine : (s.accepted).resetLine = s.resetLine := rfl
@[simp] theorem State.accepted_pending : (s.accepted).pending = s.pending := rfl
@[simp] theorem State.accepted_response : (s.accepted).response = s.response := rfl

/-! `answer` -/

@[simp] theorem State.answer_raw (r : Response) : (s.answer r).raw = s.raw := rfl
@[simp] theorem State.answer_rawLen (r : Response) : (s.answer r).rawLen = s.rawLen := rfl
@[simp] theorem State.answer_ver (r : Response) : (s.answer r).ver = s.ver := rfl
@[simp] theorem State.answer_mx (r : Response) : (s.answer r).mx = s.mx := rfl
@[simp] theorem State.answer_mn (r : Response) : (s.answer r).mn = s.mn := rfl
@[simp] theorem State.answer_me (r : Response) : (s.answer r).me = s.me := rfl
@[simp] theorem State.answer_mr (r : Response) : (s.answer r).mr = s.mr := rfl
@[simp] theorem State.answer_mrLen (r : Response) : (s.answer r).mrLen = s.mrLen := rfl
@[simp] theorem State.answer_dbuf (r : Response) : (s.answer r).dbuf = s.dbuf := rfl
@[simp] theorem State.answer_dlen (r : Response) : (s.answer r).dlen = s.dlen := rfl
@[simp] theorem State.answer_cur (r : Response) : (s.answer r).cur = s.cur := rfl
@[simp] theorem State.answer_lastDelim (r : Response) : (s.answer r).lastDelim = s.lastDelim := rfl
@[simp] theorem State.answer_ldValid (r : Response) : (s.answer r).ldValid = s.ldValid := rfl
@[simp] theorem State.answer_nq (r : Response) : (s.answer r).nq = s.nq := rfl
@[simp] theorem State.answer_nqh (r : Response) : (s.answer r).nqh = s.nqh := rfl
@[simp] theorem State.answer_nqt (r : Response) : (s.answer r).nqt = s.nqt := rfl
@[simp] theorem State.answer_lcnt (r : Response) : (s.answer r).lcnt = s.lcnt := rfl
@[simp] theorem State.answer_slots (r : Response) : (s.answer r).slots = s.slots := rfl
@[simp] theorem State.answer_upc (r : Response) : (s.answer r).upc = s.upc := rfl
@[simp] theorem State.answer_err (r : Response) : (s.answer r).err = s.err := rfl
@[simp] theorem State.answer_einfo (r : Response) : (s.answer r).einfo = s.einfo := rfl
@[simp] theorem State.answer_recValid (r : Response) : (s.answer r).recValid = s.recValid := rfl
@[simp] theorem State.answer_busy (r : Response) : (s.answer r).busy = s.busy := rfl
@[simp] theorem State.answer_ssel (r : Response) : (s.answer r).ssel = s.ssel := rfl
@[simp] theorem State.answer_config (r : Response) : (s.answer r).config = s.config := rfl
@[simp] theorem State.answer_resetLine (r : Response) : (s.answer r).resetLine = s.resetLine := rfl
@[simp] theorem State.answer_pending (r : Response) : (s.answer r).pending = s.pending := rfl
@[simp] theorem State.answer_response (r : Response) : (s.answer r).response = r := rfl

/-! `clearBuffer` -/

@[simp] theorem State.clearBuffer_raw : (s.clearBuffer).raw = s.raw := rfl
@[simp] theorem State.clearBuffer_rawLen : (s.clearBuffer).rawLen = s.rawLen := rfl
@[simp] theorem State.clearBuffer_ver : (s.clearBuffer).ver = s.ver := rfl
@[simp] theorem State.clearBuffer_mx : (s.clearBuffer).mx = s.mx := rfl
@[simp] theorem State.clearBuffer_mn : (s.clearBuffer).mn = s.mn := rfl
@[simp] theorem State.clearBuffer_me : (s.clearBuffer).me = s.me := rfl
@[simp] theorem State.clearBuffer_mr : (s.clearBuffer).mr = s.mr := rfl
@[simp] theorem State.clearBuffer_mrLen : (s.clearBuffer).mrLen = s.mrLen := rfl
@[simp] theorem State.clearBuffer_dbuf : (s.clearBuffer).dbuf = s.dbuf := rfl
@[simp] theorem State.clearBuffer_dlen : (s.clearBuffer).dlen = 0#10 := rfl
@[simp] theorem State.clearBuffer_cur : (s.clearBuffer).cur = 0#10 := rfl
@[simp] theorem State.clearBuffer_lastDelim : (s.clearBuffer).lastDelim = 0#8 := rfl
@[simp] theorem State.clearBuffer_ldValid : (s.clearBuffer).ldValid = false := rfl
@[simp] theorem State.clearBuffer_nq : (s.clearBuffer).nq = s.nq := rfl
@[simp] theorem State.clearBuffer_nqh : (s.clearBuffer).nqh = 0#11 := rfl
@[simp] theorem State.clearBuffer_nqt : (s.clearBuffer).nqt = 0#11 := rfl
@[simp] theorem State.clearBuffer_lcnt : (s.clearBuffer).lcnt = s.lcnt := rfl
@[simp] theorem State.clearBuffer_slots : (s.clearBuffer).slots = s.slots := rfl
@[simp] theorem State.clearBuffer_upc : (s.clearBuffer).upc = s.upc := rfl
@[simp] theorem State.clearBuffer_err : (s.clearBuffer).err = s.err := rfl
@[simp] theorem State.clearBuffer_einfo : (s.clearBuffer).einfo = s.einfo := rfl
@[simp] theorem State.clearBuffer_recValid : (s.clearBuffer).recValid = s.recValid := rfl
@[simp] theorem State.clearBuffer_busy : (s.clearBuffer).busy = s.busy := rfl
@[simp] theorem State.clearBuffer_ssel : (s.clearBuffer).ssel = s.ssel := rfl
@[simp] theorem State.clearBuffer_config : (s.clearBuffer).config = s.config := rfl
@[simp] theorem State.clearBuffer_resetLine : (s.clearBuffer).resetLine = s.resetLine := rfl
@[simp] theorem State.clearBuffer_pending : (s.clearBuffer).pending = s.pending := rfl
@[simp] theorem State.clearBuffer_response : (s.clearBuffer).response = s.response := rfl

/-! `loadQueue` -/

@[simp] theorem State.loadQueue_raw (bs : List Byte) : (s.loadQueue bs).raw = s.raw := rfl
@[simp] theorem State.loadQueue_rawLen (bs : List Byte) : (s.loadQueue bs).rawLen = s.rawLen := rfl
@[simp] theorem State.loadQueue_ver (bs : List Byte) : (s.loadQueue bs).ver = s.ver := rfl
@[simp] theorem State.loadQueue_mx (bs : List Byte) : (s.loadQueue bs).mx = s.mx := rfl
@[simp] theorem State.loadQueue_mn (bs : List Byte) : (s.loadQueue bs).mn = s.mn := rfl
@[simp] theorem State.loadQueue_me (bs : List Byte) : (s.loadQueue bs).me = s.me := rfl
@[simp] theorem State.loadQueue_mr (bs : List Byte) : (s.loadQueue bs).mr = s.mr := rfl
@[simp] theorem State.loadQueue_mrLen (bs : List Byte) : (s.loadQueue bs).mrLen = s.mrLen := rfl
@[simp] theorem State.loadQueue_dbuf (bs : List Byte) : (s.loadQueue bs).dbuf = s.dbuf := rfl
@[simp] theorem State.loadQueue_dlen (bs : List Byte) : (s.loadQueue bs).dlen = s.dlen := rfl
@[simp] theorem State.loadQueue_cur (bs : List Byte) : (s.loadQueue bs).cur = s.cur := rfl
@[simp] theorem State.loadQueue_lastDelim (bs : List Byte) : (s.loadQueue bs).lastDelim = s.lastDelim := rfl
@[simp] theorem State.loadQueue_ldValid (bs : List Byte) : (s.loadQueue bs).ldValid = s.ldValid := rfl
@[simp] theorem State.loadQueue_nq (bs : List Byte) : (s.loadQueue bs).nq = s.nq.writeRange 0 (nibblesOf bs) := rfl
@[simp] theorem State.loadQueue_nqh (bs : List Byte) : (s.loadQueue bs).nqh = 0#11 := rfl
@[simp] theorem State.loadQueue_nqt (bs : List Byte) : (s.loadQueue bs).nqt = BitVec.ofNat 11 (2 * bs.length) := rfl
@[simp] theorem State.loadQueue_lcnt (bs : List Byte) : (s.loadQueue bs).lcnt = s.lcnt := rfl
@[simp] theorem State.loadQueue_slots (bs : List Byte) : (s.loadQueue bs).slots = s.slots := rfl
@[simp] theorem State.loadQueue_upc (bs : List Byte) : (s.loadQueue bs).upc = s.upc := rfl
@[simp] theorem State.loadQueue_err (bs : List Byte) : (s.loadQueue bs).err = s.err := rfl
@[simp] theorem State.loadQueue_einfo (bs : List Byte) : (s.loadQueue bs).einfo = s.einfo := rfl
@[simp] theorem State.loadQueue_recValid (bs : List Byte) : (s.loadQueue bs).recValid = s.recValid := rfl
@[simp] theorem State.loadQueue_busy (bs : List Byte) : (s.loadQueue bs).busy = s.busy := rfl
@[simp] theorem State.loadQueue_ssel (bs : List Byte) : (s.loadQueue bs).ssel = s.ssel := rfl
@[simp] theorem State.loadQueue_config (bs : List Byte) : (s.loadQueue bs).config = s.config := rfl
@[simp] theorem State.loadQueue_resetLine (bs : List Byte) : (s.loadQueue bs).resetLine = s.resetLine := rfl
@[simp] theorem State.loadQueue_pending (bs : List Byte) : (s.loadQueue bs).pending = s.pending := rfl
@[simp] theorem State.loadQueue_response (bs : List Byte) : (s.loadQueue bs).response = s.response := rfl

/-! `clearCall` -/

@[simp] theorem State.clearCall_raw : (s.clearCall).raw = s.raw := rfl
@[simp] theorem State.clearCall_rawLen : (s.clearCall).rawLen = s.rawLen := rfl
@[simp] theorem State.clearCall_ver : (s.clearCall).ver = .none := rfl
@[simp] theorem State.clearCall_mx : (s.clearCall).mx = 0#1024 := rfl
@[simp] theorem State.clearCall_mn : (s.clearCall).mn = 0#1024 := rfl
@[simp] theorem State.clearCall_me : (s.clearCall).me = 0#1024 := rfl
@[simp] theorem State.clearCall_mr : (s.clearCall).mr = 0#1024 := rfl
@[simp] theorem State.clearCall_mrLen : (s.clearCall).mrLen = 0#8 := rfl
@[simp] theorem State.clearCall_dbuf : (s.clearCall).dbuf = s.dbuf := rfl
@[simp] theorem State.clearCall_dlen : (s.clearCall).dlen = 0#10 := rfl
@[simp] theorem State.clearCall_cur : (s.clearCall).cur = 0#10 := rfl
@[simp] theorem State.clearCall_lastDelim : (s.clearCall).lastDelim = 0#8 := rfl
@[simp] theorem State.clearCall_ldValid : (s.clearCall).ldValid = false := rfl
@[simp] theorem State.clearCall_nq : (s.clearCall).nq = s.nq := rfl
@[simp] theorem State.clearCall_nqh : (s.clearCall).nqh = 0#11 := rfl
@[simp] theorem State.clearCall_nqt : (s.clearCall).nqt = 0#11 := rfl
@[simp] theorem State.clearCall_lcnt : (s.clearCall).lcnt = 0#6 := rfl
@[simp] theorem State.clearCall_slots : (s.clearCall).slots = noSlots := rfl
@[simp] theorem State.clearCall_upc : (s.clearCall).upc = 0#5 := rfl
@[simp] theorem State.clearCall_err : (s.clearCall).err = s.err := rfl
@[simp] theorem State.clearCall_einfo : (s.clearCall).einfo = s.einfo := rfl
@[simp] theorem State.clearCall_recValid : (s.clearCall).recValid = false := rfl
@[simp] theorem State.clearCall_busy : (s.clearCall).busy = s.busy := rfl
@[simp] theorem State.clearCall_ssel : (s.clearCall).ssel = s.ssel := rfl
@[simp] theorem State.clearCall_config : (s.clearCall).config = s.config := rfl
@[simp] theorem State.clearCall_resetLine : (s.clearCall).resetLine = s.resetLine := rfl
@[simp] theorem State.clearCall_pending : (s.clearCall).pending = s.pending := rfl
@[simp] theorem State.clearCall_response : (s.clearCall).response = s.response := rfl

/-! `clearAll` -/

@[simp] theorem State.clearAll_raw : (s.clearAll).raw = State.reset.raw := rfl
@[simp] theorem State.clearAll_rawLen : (s.clearAll).rawLen = State.reset.rawLen := rfl
@[simp] theorem State.clearAll_ver : (s.clearAll).ver = State.reset.ver := rfl
@[simp] theorem State.clearAll_mx : (s.clearAll).mx = State.reset.mx := rfl
@[simp] theorem State.clearAll_mn : (s.clearAll).mn = State.reset.mn := rfl
@[simp] theorem State.clearAll_me : (s.clearAll).me = State.reset.me := rfl
@[simp] theorem State.clearAll_mr : (s.clearAll).mr = State.reset.mr := rfl
@[simp] theorem State.clearAll_mrLen : (s.clearAll).mrLen = State.reset.mrLen := rfl
@[simp] theorem State.clearAll_dbuf : (s.clearAll).dbuf = State.reset.dbuf := rfl
@[simp] theorem State.clearAll_dlen : (s.clearAll).dlen = State.reset.dlen := rfl
@[simp] theorem State.clearAll_cur : (s.clearAll).cur = State.reset.cur := rfl
@[simp] theorem State.clearAll_lastDelim : (s.clearAll).lastDelim = State.reset.lastDelim := rfl
@[simp] theorem State.clearAll_ldValid : (s.clearAll).ldValid = State.reset.ldValid := rfl
@[simp] theorem State.clearAll_nq : (s.clearAll).nq = State.reset.nq := rfl
@[simp] theorem State.clearAll_nqh : (s.clearAll).nqh = State.reset.nqh := rfl
@[simp] theorem State.clearAll_nqt : (s.clearAll).nqt = State.reset.nqt := rfl
@[simp] theorem State.clearAll_lcnt : (s.clearAll).lcnt = State.reset.lcnt := rfl
@[simp] theorem State.clearAll_slots : (s.clearAll).slots = State.reset.slots := rfl
@[simp] theorem State.clearAll_upc : (s.clearAll).upc = State.reset.upc := rfl
@[simp] theorem State.clearAll_err : (s.clearAll).err = State.reset.err := rfl
@[simp] theorem State.clearAll_einfo : (s.clearAll).einfo = State.reset.einfo := rfl
@[simp] theorem State.clearAll_recValid : (s.clearAll).recValid = State.reset.recValid := rfl
@[simp] theorem State.clearAll_busy : (s.clearAll).busy = State.reset.busy := rfl
@[simp] theorem State.clearAll_ssel : (s.clearAll).ssel = State.reset.ssel := rfl
@[simp] theorem State.clearAll_config : (s.clearAll).config = s.config := rfl
@[simp] theorem State.clearAll_resetLine : (s.clearAll).resetLine = s.resetLine := rfl
@[simp] theorem State.clearAll_pending : (s.clearAll).pending = s.pending := rfl
@[simp] theorem State.clearAll_response : (s.clearAll).response = s.response := rfl

/-! `dropRecord` -/

@[simp] theorem State.dropRecord_raw (i : Instr) : (s.dropRecord i).raw = s.raw := rfl
@[simp] theorem State.dropRecord_rawLen (i : Instr) : (s.dropRecord i).rawLen = s.rawLen := rfl
@[simp] theorem State.dropRecord_ver (i : Instr) : (s.dropRecord i).ver = s.ver := rfl
@[simp] theorem State.dropRecord_mx (i : Instr) : (s.dropRecord i).mx = s.mx := rfl
@[simp] theorem State.dropRecord_mn (i : Instr) : (s.dropRecord i).mn = s.mn := rfl
@[simp] theorem State.dropRecord_me (i : Instr) : (s.dropRecord i).me = s.me := rfl
@[simp] theorem State.dropRecord_mr (i : Instr) : (s.dropRecord i).mr = s.mr := rfl
@[simp] theorem State.dropRecord_mrLen (i : Instr) : (s.dropRecord i).mrLen = s.mrLen := rfl
@[simp] theorem State.dropRecord_dbuf (i : Instr) : (s.dropRecord i).dbuf = s.dbuf := rfl
@[simp] theorem State.dropRecord_dlen (i : Instr) : (s.dropRecord i).dlen = s.dlen := rfl
@[simp] theorem State.dropRecord_cur (i : Instr) : (s.dropRecord i).cur = s.cur := rfl
@[simp] theorem State.dropRecord_lastDelim (i : Instr) : (s.dropRecord i).lastDelim = s.lastDelim := rfl
@[simp] theorem State.dropRecord_ldValid (i : Instr) : (s.dropRecord i).ldValid = s.ldValid := rfl
@[simp] theorem State.dropRecord_nq (i : Instr) : (s.dropRecord i).nq = s.nq := rfl
@[simp] theorem State.dropRecord_nqh (i : Instr) : (s.dropRecord i).nqh = s.nqh := rfl
@[simp] theorem State.dropRecord_nqt (i : Instr) : (s.dropRecord i).nqt = s.nqt := rfl
@[simp] theorem State.dropRecord_lcnt (i : Instr) : (s.dropRecord i).lcnt = s.lcnt := rfl
@[simp] theorem State.dropRecord_slots (i : Instr) : (s.dropRecord i).slots = s.slots := rfl
@[simp] theorem State.dropRecord_upc (i : Instr) : (s.dropRecord i).upc = s.upc := rfl
@[simp] theorem State.dropRecord_err (i : Instr) : (s.dropRecord i).err = s.err := rfl
@[simp] theorem State.dropRecord_einfo (i : Instr) : (s.dropRecord i).einfo = s.einfo := rfl
@[simp] theorem State.dropRecord_recValid (i : Instr) : (s.dropRecord i).recValid = if i = .nop then s.recValid else false := rfl
@[simp] theorem State.dropRecord_busy (i : Instr) : (s.dropRecord i).busy = s.busy := rfl
@[simp] theorem State.dropRecord_ssel (i : Instr) : (s.dropRecord i).ssel = s.ssel := rfl
@[simp] theorem State.dropRecord_config (i : Instr) : (s.dropRecord i).config = s.config := rfl
@[simp] theorem State.dropRecord_resetLine (i : Instr) : (s.dropRecord i).resetLine = s.resetLine := rfl
@[simp] theorem State.dropRecord_pending (i : Instr) : (s.dropRecord i).pending = s.pending := rfl
@[simp] theorem State.dropRecord_response (i : Instr) : (s.dropRecord i).response = s.response := rfl

/-! `pushRaw` -/

@[simp] theorem State.pushRaw_raw (b : Byte) : (s.pushRaw b).raw = if s.rawLen.toNat < 720 then s.raw.write s.rawLen.toNat b else s.raw := rfl
@[simp] theorem State.pushRaw_rawLen (b : Byte) : (s.pushRaw b).rawLen = if s.rawLen.toNat < 65535 then s.rawLen + 1#16 else s.rawLen := rfl
@[simp] theorem State.pushRaw_ver (b : Byte) : (s.pushRaw b).ver = s.ver := rfl
@[simp] theorem State.pushRaw_mx (b : Byte) : (s.pushRaw b).mx = s.mx := rfl
@[simp] theorem State.pushRaw_mn (b : Byte) : (s.pushRaw b).mn = s.mn := rfl
@[simp] theorem State.pushRaw_me (b : Byte) : (s.pushRaw b).me = s.me := rfl
@[simp] theorem State.pushRaw_mr (b : Byte) : (s.pushRaw b).mr = s.mr := rfl
@[simp] theorem State.pushRaw_mrLen (b : Byte) : (s.pushRaw b).mrLen = s.mrLen := rfl
@[simp] theorem State.pushRaw_dbuf (b : Byte) : (s.pushRaw b).dbuf = s.dbuf := rfl
@[simp] theorem State.pushRaw_dlen (b : Byte) : (s.pushRaw b).dlen = s.dlen := rfl
@[simp] theorem State.pushRaw_cur (b : Byte) : (s.pushRaw b).cur = s.cur := rfl
@[simp] theorem State.pushRaw_lastDelim (b : Byte) : (s.pushRaw b).lastDelim = s.lastDelim := rfl
@[simp] theorem State.pushRaw_ldValid (b : Byte) : (s.pushRaw b).ldValid = s.ldValid := rfl
@[simp] theorem State.pushRaw_nq (b : Byte) : (s.pushRaw b).nq = s.nq := rfl
@[simp] theorem State.pushRaw_nqh (b : Byte) : (s.pushRaw b).nqh = s.nqh := rfl
@[simp] theorem State.pushRaw_nqt (b : Byte) : (s.pushRaw b).nqt = s.nqt := rfl
@[simp] theorem State.pushRaw_lcnt (b : Byte) : (s.pushRaw b).lcnt = s.lcnt := rfl
@[simp] theorem State.pushRaw_slots (b : Byte) : (s.pushRaw b).slots = s.slots := rfl
@[simp] theorem State.pushRaw_upc (b : Byte) : (s.pushRaw b).upc = s.upc := rfl
@[simp] theorem State.pushRaw_err (b : Byte) : (s.pushRaw b).err = s.err := rfl
@[simp] theorem State.pushRaw_einfo (b : Byte) : (s.pushRaw b).einfo = s.einfo := rfl
@[simp] theorem State.pushRaw_recValid (b : Byte) : (s.pushRaw b).recValid = s.recValid := rfl
@[simp] theorem State.pushRaw_busy (b : Byte) : (s.pushRaw b).busy = s.busy := rfl
@[simp] theorem State.pushRaw_ssel (b : Byte) : (s.pushRaw b).ssel = s.ssel := rfl
@[simp] theorem State.pushRaw_config (b : Byte) : (s.pushRaw b).config = s.config := rfl
@[simp] theorem State.pushRaw_resetLine (b : Byte) : (s.pushRaw b).resetLine = s.resetLine := rfl
@[simp] theorem State.pushRaw_pending (b : Byte) : (s.pushRaw b).pending = s.pending := rfl
@[simp] theorem State.pushRaw_response (b : Byte) : (s.pushRaw b).response = s.response := rfl

/-! `setBusy` -/

@[simp] theorem State.setBusy_raw (b : Bool) : (s.setBusy b).raw = s.raw := rfl
@[simp] theorem State.setBusy_rawLen (b : Bool) : (s.setBusy b).rawLen = s.rawLen := rfl
@[simp] theorem State.setBusy_ver (b : Bool) : (s.setBusy b).ver = s.ver := rfl
@[simp] theorem State.setBusy_mx (b : Bool) : (s.setBusy b).mx = s.mx := rfl
@[simp] theorem State.setBusy_mn (b : Bool) : (s.setBusy b).mn = s.mn := rfl
@[simp] theorem State.setBusy_me (b : Bool) : (s.setBusy b).me = s.me := rfl
@[simp] theorem State.setBusy_mr (b : Bool) : (s.setBusy b).mr = s.mr := rfl
@[simp] theorem State.setBusy_mrLen (b : Bool) : (s.setBusy b).mrLen = s.mrLen := rfl
@[simp] theorem State.setBusy_dbuf (b : Bool) : (s.setBusy b).dbuf = s.dbuf := rfl
@[simp] theorem State.setBusy_dlen (b : Bool) : (s.setBusy b).dlen = s.dlen := rfl
@[simp] theorem State.setBusy_cur (b : Bool) : (s.setBusy b).cur = s.cur := rfl
@[simp] theorem State.setBusy_lastDelim (b : Bool) : (s.setBusy b).lastDelim = s.lastDelim := rfl
@[simp] theorem State.setBusy_ldValid (b : Bool) : (s.setBusy b).ldValid = s.ldValid := rfl
@[simp] theorem State.setBusy_nq (b : Bool) : (s.setBusy b).nq = s.nq := rfl
@[simp] theorem State.setBusy_nqh (b : Bool) : (s.setBusy b).nqh = s.nqh := rfl
@[simp] theorem State.setBusy_nqt (b : Bool) : (s.setBusy b).nqt = s.nqt := rfl
@[simp] theorem State.setBusy_lcnt (b : Bool) : (s.setBusy b).lcnt = s.lcnt := rfl
@[simp] theorem State.setBusy_slots (b : Bool) : (s.setBusy b).slots = s.slots := rfl
@[simp] theorem State.setBusy_upc (b : Bool) : (s.setBusy b).upc = s.upc := rfl
@[simp] theorem State.setBusy_err (b : Bool) : (s.setBusy b).err = s.err := rfl
@[simp] theorem State.setBusy_einfo (b : Bool) : (s.setBusy b).einfo = s.einfo := rfl
@[simp] theorem State.setBusy_recValid (b : Bool) : (s.setBusy b).recValid = s.recValid := rfl
@[simp] theorem State.setBusy_busy (b : Bool) : (s.setBusy b).busy = b := rfl
@[simp] theorem State.setBusy_ssel (b : Bool) : (s.setBusy b).ssel = s.ssel := rfl
@[simp] theorem State.setBusy_config (b : Bool) : (s.setBusy b).config = s.config := rfl
@[simp] theorem State.setBusy_resetLine (b : Bool) : (s.setBusy b).resetLine = s.resetLine := rfl
@[simp] theorem State.setBusy_pending (b : Bool) : (s.setBusy b).pending = s.pending := rfl
@[simp] theorem State.setBusy_response (b : Bool) : (s.setBusy b).response = s.response := rfl

/-! `nextMicro` -/

@[simp] theorem State.nextMicro_raw : (s.nextMicro).raw = s.raw := rfl
@[simp] theorem State.nextMicro_rawLen : (s.nextMicro).rawLen = s.rawLen := rfl
@[simp] theorem State.nextMicro_ver : (s.nextMicro).ver = s.ver := rfl
@[simp] theorem State.nextMicro_mx : (s.nextMicro).mx = s.mx := rfl
@[simp] theorem State.nextMicro_mn : (s.nextMicro).mn = s.mn := rfl
@[simp] theorem State.nextMicro_me : (s.nextMicro).me = s.me := rfl
@[simp] theorem State.nextMicro_mr : (s.nextMicro).mr = s.mr := rfl
@[simp] theorem State.nextMicro_mrLen : (s.nextMicro).mrLen = s.mrLen := rfl
@[simp] theorem State.nextMicro_dbuf : (s.nextMicro).dbuf = s.dbuf := rfl
@[simp] theorem State.nextMicro_dlen : (s.nextMicro).dlen = s.dlen := rfl
@[simp] theorem State.nextMicro_cur : (s.nextMicro).cur = s.cur := rfl
@[simp] theorem State.nextMicro_lastDelim : (s.nextMicro).lastDelim = s.lastDelim := rfl
@[simp] theorem State.nextMicro_ldValid : (s.nextMicro).ldValid = s.ldValid := rfl
@[simp] theorem State.nextMicro_nq : (s.nextMicro).nq = s.nq := rfl
@[simp] theorem State.nextMicro_nqh : (s.nextMicro).nqh = s.nqh := rfl
@[simp] theorem State.nextMicro_nqt : (s.nextMicro).nqt = s.nqt := rfl
@[simp] theorem State.nextMicro_lcnt : (s.nextMicro).lcnt = s.lcnt := rfl
@[simp] theorem State.nextMicro_slots : (s.nextMicro).slots = s.slots := rfl
@[simp] theorem State.nextMicro_upc : (s.nextMicro).upc = s.upc + 1#5 := rfl
@[simp] theorem State.nextMicro_err : (s.nextMicro).err = s.err := rfl
@[simp] theorem State.nextMicro_einfo : (s.nextMicro).einfo = s.einfo := rfl
@[simp] theorem State.nextMicro_recValid : (s.nextMicro).recValid = s.recValid := rfl
@[simp] theorem State.nextMicro_busy : (s.nextMicro).busy = s.busy := rfl
@[simp] theorem State.nextMicro_ssel : (s.nextMicro).ssel = s.ssel := rfl
@[simp] theorem State.nextMicro_config : (s.nextMicro).config = s.config := rfl
@[simp] theorem State.nextMicro_resetLine : (s.nextMicro).resetLine = s.resetLine := rfl
@[simp] theorem State.nextMicro_pending : (s.nextMicro).pending = s.pending := rfl
@[simp] theorem State.nextMicro_response : (s.nextMicro).response = s.response := rfl

/-! `finishRun` -/

@[simp] theorem State.finishRun_raw : (s.finishRun).raw = s.raw := rfl
@[simp] theorem State.finishRun_rawLen : (s.finishRun).rawLen = s.rawLen := rfl
@[simp] theorem State.finishRun_ver : (s.finishRun).ver = s.ver := rfl
@[simp] theorem State.finishRun_mx : (s.finishRun).mx = s.mx := rfl
@[simp] theorem State.finishRun_mn : (s.finishRun).mn = s.mn := rfl
@[simp] theorem State.finishRun_me : (s.finishRun).me = s.me := rfl
@[simp] theorem State.finishRun_mr : (s.finishRun).mr = s.mr := rfl
@[simp] theorem State.finishRun_mrLen : (s.finishRun).mrLen = s.mrLen := rfl
@[simp] theorem State.finishRun_dbuf : (s.finishRun).dbuf = s.dbuf := rfl
@[simp] theorem State.finishRun_dlen : (s.finishRun).dlen = s.dlen := rfl
@[simp] theorem State.finishRun_cur : (s.finishRun).cur = s.cur := rfl
@[simp] theorem State.finishRun_lastDelim : (s.finishRun).lastDelim = s.lastDelim := rfl
@[simp] theorem State.finishRun_ldValid : (s.finishRun).ldValid = s.ldValid := rfl
@[simp] theorem State.finishRun_nq : (s.finishRun).nq = s.nq := rfl
@[simp] theorem State.finishRun_nqh : (s.finishRun).nqh = s.nqh := rfl
@[simp] theorem State.finishRun_nqt : (s.finishRun).nqt = s.nqt := rfl
@[simp] theorem State.finishRun_lcnt : (s.finishRun).lcnt = s.lcnt := rfl
@[simp] theorem State.finishRun_slots : (s.finishRun).slots = s.slots := rfl
@[simp] theorem State.finishRun_upc : (s.finishRun).upc = 27#5 := rfl
@[simp] theorem State.finishRun_err : (s.finishRun).err = s.err := rfl
@[simp] theorem State.finishRun_einfo : (s.finishRun).einfo = s.einfo := rfl
@[simp] theorem State.finishRun_recValid : (s.finishRun).recValid = true := rfl
@[simp] theorem State.finishRun_busy : (s.finishRun).busy = s.busy := rfl
@[simp] theorem State.finishRun_ssel : (s.finishRun).ssel = s.ssel := rfl
@[simp] theorem State.finishRun_config : (s.finishRun).config = s.config := rfl
@[simp] theorem State.finishRun_resetLine : (s.finishRun).resetLine = s.resetLine := rfl
@[simp] theorem State.finishRun_pending : (s.finishRun).pending = s.pending := rfl
@[simp] theorem State.finishRun_response : (s.finishRun).response = s.response := rfl

end Sys2Proof.Machine
end

