-- ==== Sys2Proof/Laws/Memory.lean ====
section
/-! SUPPORT. Memory cells: a read after a write, the canonical form kept by every operation, ranges, and equality of
memories that read alike. -/

namespace Sys2Proof.Machine

variable {w : Nat}

theorem Memory.wfFrom_mono {lo hi : Nat} {m : Memory w} (h : Memory.wfFrom hi m = true) (hl : lo ≤ hi) :
    Memory.wfFrom lo m = true := by
  cases m with
  | nil => rfl
  | cons c m =>
    simp only [Memory.wfFrom, Bool.and_eq_true, decide_eq_true_eq] at h ⊢
    exact ⟨⟨by omega, h.1.2⟩, h.2⟩

theorem Memory.read_below {lo a : Nat} {m : Memory w} (h : Memory.wfFrom lo m = true) (ha : a < lo) :
    m.read a = Memory.default w := by
  induction m generalizing lo with
  | nil => rfl
  | cons c m ih =>
    simp only [Memory.wfFrom, Bool.and_eq_true, decide_eq_true_eq] at h
    rw [Memory.read, if_neg (by omega), ih h.2 (by omega)]

theorem Memory.read_write_ne {m : Memory w} {a b : Nat} (v : BitVec w) (h : b ≠ a) :
    (m.write a v).read b = m.read b := by
  induction m with
  | nil => simp only [Memory.write]; split <;> simp [Memory.read, h]
  | cons c m ih =>
    simp only [Memory.write]
    split
    · split <;> simp [Memory.read, h]
    · split
      · subst a; split <;> simp [Memory.read, h]
      · simp [Memory.read, ih]

theorem Memory.read_write_self_from {lo : Nat} {m : Memory w} (hm : Memory.wfFrom lo m = true) (a : Nat)
    (v : BitVec w) : (m.write a v).read a = v := by
  induction m generalizing lo with
  | nil => simp only [Memory.write]; split <;> simp_all [Memory.read]
  | cons c m ih =>
    simp only [Memory.wfFrom, Bool.and_eq_true, decide_eq_true_eq] at hm
    simp only [Memory.write]
    split
    · split
      · next h hv => rw [Memory.read, if_neg (by omega), Memory.read_below hm.2 (by omega), hv]
      · simp [Memory.read]
    · split
      · subst a
        split
        · next hv => rw [Memory.read_below hm.2 (by omega), hv]
        · simp [Memory.read]
      · next h => rw [Memory.read, if_neg h, ih hm.2]

/-- A read after a write: the value written at its address, the old value everywhere else. -/
theorem Memory.read_write {m : Memory w} (hm : m.wf = true) (a b : Nat) (v : BitVec w) :
    (m.write a v).read b = if b = a then v else m.read b := by
  split
  · next h => subst h; exact Memory.read_write_self_from hm b v
  · next h => exact Memory.read_write_ne v h

theorem Memory.wfFrom_write {lo : Nat} {m : Memory w} (hm : Memory.wfFrom lo m = true) {a : Nat} (v : BitVec w)
    (ha : lo ≤ a) : Memory.wfFrom lo (m.write a v) = true := by
  induction m generalizing lo with
  | nil => simp only [Memory.write]; split <;> simp_all [Memory.wfFrom]
  | cons c m ih =>
    simp only [Memory.wfFrom, Bool.and_eq_true, decide_eq_true_eq] at hm
    simp only [Memory.write]
    split
    · split
      · simp [Memory.wfFrom, hm]
      · next h hv => simp [Memory.wfFrom, hm, ha, hv, Nat.succ_le_of_lt h]
    · split
      · split
        · exact Memory.wfFrom_mono hm.2 (by omega)
        · next hv => simp [Memory.wfFrom, hm, hv]
      · simp [Memory.wfFrom, hm, ih hm.2 (by omega)]

/-- A write keeps the canonical form. -/
theorem Memory.wf_write {m : Memory w} (hm : m.wf = true) (a : Nat) (v : BitVec w) : (m.write a v).wf = true :=
  Memory.wfFrom_write hm v (Nat.zero_le a)

theorem Memory.below_write {m : Memory w} {n a : Nat} (hm : m.below n = true) (v : BitVec w) (ha : a < n) :
    (m.write a v).below n = true := by
  induction m with
  | nil => simp only [Memory.write]; split <;> simp_all [Memory.below]
  | cons c m ih =>
    simp only [Memory.below, List.all_cons, Bool.and_eq_true, decide_eq_true_eq] at hm ih
    simp only [Memory.write]
    split
    · split <;> simp_all [Memory.below] <;> exact hm.2
    · split
      · split <;> simp_all [Memory.below] <;> exact hm.2
      · simp only [Memory.below, List.all_cons, Bool.and_eq_true, decide_eq_true_eq]
        exact ⟨hm.1, ih hm.2⟩

@[simp] theorem Memory.length_readRange (m : Memory w) (a n : Nat) : (m.readRange a n).length = n := by
  induction n generalizing a with
  | zero => rfl
  | succ n ih => simp [Memory.readRange, ih]

theorem Memory.getElem_readRange (m : Memory w) (a n i : Nat) (h : i < (m.readRange a n).length) :
    (m.readRange a n)[i] = m.read (a + i) := by
  induction n generalizing a i with
  | zero => simp at h
  | succ n ih =>
    cases i with
    | zero => rfl
    | succ i =>
      simp only [Memory.readRange, List.getElem_cons_succ]
      rw [ih]
      congr 1
      omega

theorem Memory.readRange_append (m : Memory w) (a n k : Nat) :
    m.readRange a (n + k) = m.readRange a n ++ m.readRange (a + n) k := by
  induction n generalizing a with
  | zero => simp [Memory.readRange]
  | succ n ih =>
    rw [show n + 1 + k = (n + k) + 1 by omega]
    simp only [Memory.readRange, List.cons_append, ih]
    congr 3
    omega

/-- Two memories that read alike on a range give the same range. -/
theorem Memory.readRange_congr {m m' : Memory w} {a n : Nat} (h : ∀ i < n, m.read (a + i) = m'.read (a + i)) :
    m.readRange a n = m'.readRange a n := by
  apply List.ext_getElem (by simp)
  intro i h1 h2
  rw [Memory.getElem_readRange, Memory.getElem_readRange]
  exact h i (by simpa using h1)

theorem Memory.wf_writeRange {m : Memory w} (hm : m.wf = true) (a : Nat) (vs : List (BitVec w)) :
    (m.writeRange a vs).wf = true := by
  induction vs generalizing m a with
  | nil => exact hm
  | cons v vs ih => exact ih (Memory.wf_write hm a v) (a + 1)

theorem Memory.below_writeRange {m : Memory w} {n : Nat} (hm : m.below n = true) {a : Nat} {vs : List (BitVec w)}
    (ha : a + vs.length ≤ n) : (m.writeRange a vs).below n = true := by
  induction vs generalizing m a with
  | nil => exact hm
  | cons v vs ih =>
    simp only [List.length_cons] at ha
    exact ih (Memory.below_write hm v (by omega)) (by omega)

theorem Memory.writeRange_append (m : Memory w) (a : Nat) (us vs : List (BitVec w)) :
    m.writeRange a (us ++ vs) = (m.writeRange a us).writeRange (a + us.length) vs := by
  induction us generalizing m a with
  | nil => simp [Memory.writeRange]
  | cons u us ih =>
    simp only [List.cons_append, Memory.writeRange, ih, List.length_cons]
    congr 1
    omega

/-- A range write leaves every address outside its range alone. -/
theorem Memory.read_writeRange_ne {m : Memory w} {a b : Nat} {vs : List (BitVec w)}
    (h : b < a ∨ a + vs.length ≤ b) : (m.writeRange a vs).read b = m.read b := by
  induction vs generalizing m a with
  | nil => rfl
  | cons v vs ih =>
    simp only [List.length_cons] at h
    rw [Memory.writeRange, ih (by omega), Memory.read_write_ne v (by omega)]

/-- A range write is read back whole. -/
theorem Memory.readRange_writeRange {m : Memory w} (hm : m.wf = true) (a : Nat) (vs : List (BitVec w)) :
    (m.writeRange a vs).readRange a vs.length = vs := by
  induction vs generalizing m a with
  | nil => rfl
  | cons v vs ih =>
    simp only [Memory.writeRange, List.length_cons, Memory.readRange]
    rw [ih (Memory.wf_write hm a v), Memory.read_writeRange_ne (by omega), Memory.read_write hm, if_pos rfl]

/-- Canonical memories that read alike everywhere are equal data. -/
theorem Memory.ext_from {lo : Nat} {m m' : Memory w} (hm : Memory.wfFrom lo m = true)
    (hm' : Memory.wfFrom lo m' = true) (h : ∀ a, m.read a = m'.read a) : m = m' := by
  induction m generalizing lo m' with
  | nil =>
    cases m' with
    | nil => rfl
    | cons c m' =>
      simp only [Memory.wfFrom, Bool.and_eq_true, bne_iff_ne] at hm'
      exact absurd (by simpa [Memory.read] using (h c.1).symm) hm'.1.2
  | cons c m ih =>
    simp only [Memory.wfFrom, Bool.and_eq_true, bne_iff_ne, decide_eq_true_eq] at hm
    cases m' with
    | nil => exact absurd (by simpa [Memory.read] using h c.1) hm.1.2
    | cons c' m' =>
      simp only [Memory.wfFrom, Bool.and_eq_true, bne_iff_ne, decide_eq_true_eq] at hm'
      have hc : c.1 = c'.1 := by
        rcases Nat.lt_trichotomy c.1 c'.1 with hl | he | hl
        · have := h c.1
          rw [Memory.read, if_pos rfl, Memory.read, if_neg (by omega), Memory.read_below hm'.2 (by omega)] at this
          exact absurd this hm.1.2
        · exact he
        · have := h c'.1
          rw [Memory.read, if_neg (by omega), Memory.read_below hm.2 (by omega), Memory.read, if_pos rfl] at this
          exact absurd this.symm hm'.1.2
      have hv : c.2 = c'.2 := by
        have := h c.1
        rwa [Memory.read, if_pos rfl, Memory.read, if_pos hc] at this
      have hcc : c = c' := Prod.ext hc hv
      subst hcc
      congr 1
      refine ih hm.2 hm'.2 fun a => ?_
      by_cases ha : a = c.1
      · rw [Memory.read_below hm.2 (by omega), Memory.read_below hm'.2 (by omega)]
      · have := h a
        rwa [Memory.read, if_neg ha, Memory.read, if_neg ha] at this

end Sys2Proof.Machine
end

