-- ==== Sys2Proof/Laws/Ops.lean ====
section
/-! SUPPORT. What each shared operation can do, said once: acceptance of a command, its body's end, pops, strings, digits,
slots. -/

namespace Sys2Proof.Machine

/-! ### Acceptance (R103) -/

/-- A command in a ready state with legal operands: its body runs and BUSY is 0 again. -/
theorem accept_ready {i : Instr} {run : State → State} {s : State} (h : s.Ready) (hw : i.wellFormed = true) :
    accept i run s = .next ((run ((s.dropRecord i).setBusy true)).setBusy false) := by
  simp [accept, h.1, h.2, hw]

/-- Operands out of range in a ready state: the stop, before any effect (R107, R235). -/
theorem accept_illegal {i : Instr} {run : State → State} {s : State} (h : s.Ready) (hw : i.wellFormed = false) :
    accept i run s = .next (s.stop .illegalCommand i.opcode false) := by
  simp [accept, h.1, h.2, hw]

/-- In the error state a command other than CLR changes nothing (R238). -/
theorem accept_sticky {i : Instr} {run : State → State} {s : State} (he : s.err ≠ none) (hi : i ≠ .clr) :
    accept i run s = .next s := by
  unfold accept
  split
  · rfl
  · rw [if_pos ⟨he, hi⟩]

/-- The three outcomes of acceptance: nothing happens, the illegal-command stop, or the body runs. -/
theorem accept_cases {i : Instr} {run : State → State} {s t : State} (h : accept i run s = .next t) :
    t = s ∨ t = s.stop .illegalCommand i.opcode false ∨
      (i.wellFormed = true ∧ s.busy = false ∧ (s.err = none ∨ i = .clr) ∧
        t = (run ((s.dropRecord i).setBusy true)).setBusy false) := by
  unfold accept at h
  split at h
  · cases h; exact .inl rfl
  next hb =>
  split at h
  · cases h; exact .inl rfl
  next he =>
  split at h
  · cases h; exact .inr (.inl rfl)
  next hw =>
  cases h
  refine .inr (.inr ⟨by simpa using hw, by simpa using hb, ?_, rfl⟩)
  by_cases hi : i = .clr
  · exact .inr hi
  · exact .inl (by simpa [hi] using he)

/-- Acceptance always answers a next state. -/
theorem accept_next (i : Instr) (run : State → State) (s : State) : ∃ t, accept i run s = .next t := by
  unfold accept
  split
  · exact ⟨_, rfl⟩
  · split
    · exact ⟨_, rfl⟩
    · split <;> exact ⟨_, rfl⟩

theorem State.dropRecord_eq_accepted (s : State) {i : Instr} (hi : i ≠ .nop) : s.dropRecord i = s.accepted := by
  simp [State.dropRecord, State.accepted, hi]

/-- A command whose body completes. -/
theorem command_ok {i : Instr} {body : Body} {s t : State} (h : s.Ready) (hw : i.wellFormed = true) (hi : i ≠ .nop)
    (hb : body (s.accepted.setBusy true) = .ok () t) : command i body s = .next (t.setBusy false) := by
  rw [command, accept_ready h hw, State.dropRecord_eq_accepted s hi, hb]
  rfl

/-- A command whose body raises. -/
theorem command_raise {i : Instr} {body : Body} {s t : State} {k : ErrorKind} (h : s.Ready) (hw : i.wellFormed = true)
    (hi : i ≠ .nop) (hb : body (s.accepted.setBusy true) = .raise k t) :
    command i body s = .next (t.stop k i.opcode false) := by
  rw [command, accept_ready h hw, State.dropRecord_eq_accepted s hi, hb]
  rfl

/-- The body `exec` runs for a command; NOP, CLR and RUN have none (they go through `accept` themselves). -/
def bodyOf : Instr → Body
  | .nop => fun s => .ok () s
  | .clr => fun s => .ok () s
  | .run => fun s => .ok () s
  | .chklen => chklen
  | .verdet => verdet
  | .ldkey cls => loadKey (classOf cls)
  | .ldblk k => loadBlock k.toNat
  | .modexp => modexp
  | .append => append
  | .decblk k => decryptBlock k.toNat
  | .assemble => assemble
  | .seek => seek
  | .rdstrs rd count => rdstrs rd.toNat count.toNat
  | .rdstr rd => rdstr rd.toNat
  | .rdopt rd => rdopt rd.toNat
  | .rdraw rd n => rdraw rd.toNat n.toNat
  | .rddec2 rd => rddec2 rd.toNat
  | .skip n => skip n.toNat
  | .nqload => nqload
  | .dateg rd => dateg rd.toNat
  | .datel rd count => datel rd.toNat count.toNat
  | .code rd width => code rd.toNat width.toNat
  | .gender rd => gender rd.toNat

/-- What `exec` hands to acceptance for each command. -/
def runOf : Instr → State → State
  | .nop => fun t => t
  | .clr => State.clearAll
  | .run => runAll
  | i => fun t => (bodyOf i t).finish i.opcode false

/-- `exec` is acceptance of the command's own run. -/
theorem exec_eq_accept (i : Instr) (s : State) : exec i s = accept i (runOf i) s := by
  cases i <;> rfl

/-- `exec` of a command other than NOP, CLR and RUN. -/
theorem exec_eq_command {i : Instr} (s : State) (h0 : i ≠ .nop) (h1 : i ≠ .clr) (h2 : i ≠ .run) :
    exec i s = command i (bodyOf i) s := by
  cases i <;> first | rfl | contradiction

/-- Every command answers a next state: the model neither faults nor refuses. -/
theorem exec_next (i : Instr) (s : State) : ∃ t, exec i s = .next t := by
  rw [exec_eq_accept]
  exact accept_next i (runOf i) s

/-! ### Results -/

@[simp] theorem Res.bind_ok {α β : Type} (a : α) (s : State) (f : α → State → Res β) : (Res.ok a s).bind f = f a s := rfl

@[simp] theorem Res.bind_raise {α β : Type} (k : ErrorKind) (s : State) (f : α → State → Res β) :
    (Res.raise (α := α) k s).bind f = .raise k s := rfl

@[simp] theorem Res.finish_ok (s : State) (eop : Byte) (r : Bool) : (Res.ok () s).finish eop r = s := rfl

@[simp] theorem Res.finish_raise (k : ErrorKind) (s : State) (eop : Byte) (r : Bool) :
    (Res.raise k s).finish eop r = s.stop k eop r := rfl

/-! ### The cursor and the strings (R161) -/

/-- What the cursor has passed and what remains. -/
theorem State.remaining_advance {s : State} {xs ys : List Byte} (h : s.remaining = xs ++ ys) :
    (s.advance xs.length).remaining = ys := by
  have hl : s.dlen.toNat - s.cur.toNat = xs.length + ys.length := by
    have := congrArg List.length h
    simpa [State.remaining] using this
  have hd := s.dlen.isLt
  simp only [State.remaining, State.advance_dbuf, State.advance_cur, State.advance_dlen, BitVec.toNat_ofNat] at h ⊢
  by_cases hx : xs.length + ys.length = 0
  · have hx0 : xs.length = 0 := by omega
    have hy0 : ys = [] := List.length_eq_zero_iff.mp (by omega)
    have hc := s.cur.isLt
    rw [Nat.mod_eq_of_lt (by omega), show s.dlen.toNat - (s.cur.toNat + xs.length) = 0 by omega, hy0]
    rfl
  · rw [Nat.mod_eq_of_lt (by omega)]
    rw [hl, Memory.readRange_append] at h
    rw [show s.dlen.toNat - (s.cur.toNat + xs.length) = ys.length by omega]
    exact (List.append_inj h (by simp)).2

/-- The cursor lies inside DBUF when something remains. -/
theorem State.length_remaining (s : State) : s.remaining.length = s.dlen.toNat - s.cur.toNat := by
  simp [State.remaining]

/-- A field at the front of the bytes is what the scan splits off. -/
theorem splitAtDelim_field {c : Config} {f : Field} (hf : fieldOk c f = true) (rest : List Byte) :
    splitAtDelim c (fieldBytes f ++ rest) = (f.1, some f.2) := by
  obtain ⟨a, d⟩ := f
  simp only [fieldOk, Bool.and_eq_true, List.all_eq_true, fieldBytes] at hf ⊢
  induction a with
  | nil => simp [splitAtDelim, hf.2]
  | cons b a ih =>
    have hb : isDelim c b = false := by simpa using hf.1 b (by simp)
    have := ih ⟨fun x hx => hf.1 x (by simp [hx]), hf.2⟩
    simp_all [splitAtDelim]

/-- Bytes without a delimiter are all scanned, and none is found. -/
theorem splitAtDelim_none {c : Config} {bs : List Byte} (h : ∀ b ∈ bs, isDelim c b = false) :
    splitAtDelim c bs = (bs, none) := by
  induction bs with
  | nil => rfl
  | cons b bs ih => simp [splitAtDelim, h b (by simp), ih fun x hx => h x (by simp [hx])]

/-- scan_string() on a field: the delimiter is consumed and latched. -/
theorem scanString_field {s : State} {f : Field} {rest : List Byte} (h : s.remaining = fieldBytes f ++ rest)
    (hf : fieldOk s.config f = true) :
    scanString s = { acc := f.1, ended := false, state := (s.advance (f.1.length + 1)).latch f.2 } := by
  simp [scanString, h, splitAtDelim_field hf]

/-- scan_string() at the end of the buffer. -/
theorem scanString_end {s : State} (h : ∀ b ∈ s.remaining, isDelim s.config b = false) :
    scanString s = { acc := s.remaining, ended := true, state := s.advance s.remaining.length } := by
  simp [scanString, splitAtDelim_none h]

/-! ### The terminator (R176) -/

theorem splitAtTerm_found {t : Byte} {pre : List Byte} (h : t ∉ pre) (rest : List Byte) :
    splitAtTerm t (pre ++ t :: rest) = (pre, true) := by
  induction pre with
  | nil => simp [splitAtTerm]
  | cons b pre ih =>
    simp only [List.mem_cons, not_or] at h
    simp [splitAtTerm, Ne.symm h.1, ih h.2]

theorem splitAtTerm_none {t : Byte} {bs : List Byte} (h : t ∉ bs) : splitAtTerm t bs = (bs, false) := by
  induction bs with
  | nil => rfl
  | cons b bs ih =>
    simp only [List.mem_cons, not_or] at h
    simp [splitAtTerm, Ne.symm h.1, ih h.2]

@[simp] theorem length_nibblesOf (bs : List Byte) : (nibblesOf bs).length = 2 * bs.length := by
  induction bs with
  | nil => rfl
  | cons b bs ih => simp [nibblesOf, ih]; omega

/-! ### The queue (R190, R192) -/

/-- NQH moved past n nibbles. -/
def State.popped (s : State) (n : Nat) : State := { s with nqh := BitVec.ofNat 11 (s.nqh.toNat + n) }

@[simp] theorem State.popped_zero (s : State) : s.popped 0 = s := by simp [State.popped]

theorem State.length_queue (s : State) : s.queue.length = s.nqt.toNat - s.nqh.toNat := by simp [State.queue]

theorem State.queue_popped {s : State} {vs rest : List Nibble} (h : s.queue = vs ++ rest) :
    (s.popped vs.length).queue = rest := by
  have hl : s.nqt.toNat - s.nqh.toNat = vs.length + rest.length := by
    have := congrArg List.length h
    simpa [State.queue] using this
  have ht := s.nqt.isLt
  have hh := s.nqh.isLt
  simp only [State.queue, State.popped, BitVec.toNat_ofNat] at h ⊢
  by_cases hx : vs.length + rest.length = 0
  · have hr : rest = [] := List.length_eq_zero_iff.mp (by omega)
    rw [Nat.mod_eq_of_lt (by omega), show s.nqt.toNat - (s.nqh.toNat + vs.length) = 0 by omega, hr]
    rfl
  · rw [Nat.mod_eq_of_lt (by omega)]
    rw [hl, Memory.readRange_append] at h
    rw [show s.nqt.toNat - (s.nqh.toNat + vs.length) = rest.length by omega]
    exact (List.append_inj h (by simp)).2

theorem State.popped_popped {s : State} {a b : Nat} (h : s.nqh.toNat + a < 2048) :
    (s.popped a).popped b = s.popped (a + b) := by
  simp only [State.popped, BitVec.toNat_ofNat]
  rw [Nat.mod_eq_of_lt h, Nat.add_assoc]

/-- pop() on a queue that is not empty. -/
theorem pop_cons {s : State} {v : Nibble} {rest : List Nibble} (h : s.queue = v :: rest) :
    pop s = .ok v (s.popped 1) := by
  have hl := congrArg List.length h
  rw [State.length_queue, List.length_cons] at hl
  rw [pop, if_pos (by omega)]
  rw [State.queue, show s.nqt.toNat - s.nqh.toNat = rest.length + 1 by omega, Memory.readRange] at h
  rw [(List.cons.inj h).1]
  rfl

/-- pop() on an empty queue. -/
theorem pop_nil {s : State} (h : s.queue = []) : pop s = .raise .malformedField s := by
  have hl := congrArg List.length h
  rw [State.length_queue, List.length_nil] at hl
  rw [pop, if_neg (by omega)]

/-- n pops on a queue that begins with n nibbles. -/
theorem popMany_ok {s : State} {vs rest : List Nibble} (h : s.queue = vs ++ rest) :
    popMany vs.length s = .ok vs (s.popped vs.length) := by
  induction vs generalizing s with
  | nil => simp [popMany]
  | cons v vs ih =>
    have hq : (s.popped 1).queue = vs ++ rest := State.queue_popped (vs := [v]) (by simpa using h)
    have hl := congrArg List.length h
    have ht := s.nqt.isLt
    rw [State.length_queue] at hl
    simp only [List.length_append, List.length_cons] at hl
    rw [List.length_cons, popMany, pop_cons (by simpa using h), Res.bind_ok, ih hq, Res.bind_ok,
      State.popped_popped (by omega), Nat.add_comm]

/-- n pops on a queue that is too short: all of it is consumed. -/
theorem popMany_short {s : State} {n : Nat} (h : s.queue.length < n) :
    popMany n s = .raise .malformedField (s.popped s.queue.length) := by
  induction n generalizing s with
  | zero => omega
  | succ n ih =>
    rw [popMany]
    cases hq : s.queue with
    | nil => simp [pop_nil hq]
    | cons v vs =>
      have hq1 : (s.popped 1).queue = vs := State.queue_popped (vs := [v]) (by simpa using hq)
      have hl := congrArg List.length hq
      have ht := s.nqt.isLt
      rw [State.length_queue] at hl
      rw [hq] at h
      simp only [List.length_cons] at h hl
      rw [pop_cons hq, Res.bind_ok, ih (by rw [hq1]; omega), Res.bind_raise, hq1, State.popped_popped (by omega),
        List.length_cons, Nat.add_comm]

/-! ### Digits (R192) -/

theorem digitChars_ok {ds : List Nibble} (h : ∀ d ∈ ds, d.toNat ≤ 9) : digitChars ds = some (ds.map digitByte) := by
  induction ds with
  | nil => rfl
  | cons d ds ih =>
    simp [digitChars, digitChar, h d (by simp), ih fun x hx => h x (by simp [hx]), digitByte]

theorem digitChars_none {ds : List Nibble} (h : ∃ d ∈ ds, 9 < d.toNat) : digitChars ds = none := by
  induction ds with
  | nil => simp at h
  | cons d ds ih =>
    obtain ⟨x, hx, h9⟩ := h
    by_cases hd : d.toNat ≤ 9
    · have hx' : x ∈ ds := by
        rcases List.mem_cons.mp hx with rfl | hx
        · omega
        · exact hx
      simp [digitChars, digitChar, hd, ih ⟨x, hx', h9⟩]
    · simp [digitChars, digitChar, hd]

/-! ### Slots (R22) -/

theorem State.slot_beyond (s : State) {j : Nat} (h : 32 ≤ j) : s.slot j = none := by
  rw [State.slot, List.getD_eq_getElem?_getD, List.getElem?_eq_none (by simpa using h)]
  rfl

theorem State.slot_setSlot (s : State) (i j : Nat) (v : Slot) :
    (s.setSlot i v).slot j = if j = i ∧ i < 32 then v else s.slot j := by
  simp only [State.slot, State.setSlot_slots, Vector.toList_setIfInBounds, List.getD_eq_getElem?_getD,
    List.getElem?_set, Vector.length_toList]
  split
  · next h =>
    subst h
    split
    · next h' => simp [h']
    · next h' =>
      rw [if_neg fun h => h' h.2]
      exact (s.slot_beyond (Nat.le_of_not_lt h')).symm
  · next h => rw [if_neg (fun h' => h h'.1.symm)]

theorem State.slot_clearSlots (s : State) (rd n j : Nat) :
    (s.clearSlots rd n).slot j = if rd ≤ j ∧ j < rd + n then none else s.slot j := by
  induction n generalizing s rd with
  | zero => rw [State.clearSlots, if_neg (by omega)]
  | succ n ih =>
    rw [State.clearSlots, ih, State.slot_setSlot]
    by_cases h1 : j = rd
    · subst h1
      by_cases h2 : j < 32
      · simp [h2]
      · simp [h2, s.slot_beyond (Nat.le_of_not_lt h2)]
    · by_cases h2 : rd + 1 ≤ j ∧ j < rd + 1 + n
      · rw [if_pos h2, if_pos (by omega)]
      · rw [if_neg h2, if_neg (by omega), if_neg (by omega)]

/-! ### What a body leaves alone -/

/-- The state a body's result carries, whether it ended or raised. -/
def Res.state {α : Type} : Res α → State
  | .ok _ s => s
  | .raise _ s => s

@[simp] theorem Res.state_ok {α : Type} (a : α) (s : State) : (Res.ok a s).state = s := rfl

@[simp] theorem Res.state_raise {α : Type} (k : ErrorKind) (s : State) : (Res.raise (α := α) k s).state = s := rfl

@[simp] theorem State.remaining_setBusy (s : State) (b : Bool) : (s.setBusy b).remaining = s.remaining := rfl

@[simp] theorem State.remaining_accepted (s : State) : s.accepted.remaining = s.remaining := rfl

@[simp] theorem State.queue_setBusy (s : State) (b : Bool) : (s.setBusy b).queue = s.queue := rfl

@[simp] theorem State.queue_accepted (s : State) : s.accepted.queue = s.queue := rfl

@[simp] theorem State.queue_setSlot (s : State) (i : Nat) (v : Slot) : (s.setSlot i v).queue = s.queue := rfl

/-- Clearing slots writes the slots alone. -/
theorem State.clearSlots_eq (s : State) (rd n : Nat) : s.clearSlots rd n = { s with slots := (s.clearSlots rd n).slots } := by
  induction n generalizing s rd with
  | zero => rfl
  | succ n ih => rw [State.clearSlots, ih]; rfl

@[simp] theorem State.remaining_clearSlots (s : State) (rd n : Nat) : (s.clearSlots rd n).remaining = s.remaining := by
  rw [State.clearSlots_eq]; rfl

@[simp] theorem State.queue_clearSlots (s : State) (rd n : Nat) : (s.clearSlots rd n).queue = s.queue := by
  rw [State.clearSlots_eq]; rfl

/-- A slot number fits the slot file. -/
theorem setIfInBounds_slot (v : Vector Slot 32) (rd : BitVec 5) (x : Slot) :
    v.setIfInBounds rd.toNat x = v.set rd.toNat x rd.isLt := by
  apply Vector.toList_inj.mp
  simp [Vector.toList_setIfInBounds, Vector.toList_set]

/-- A command in a ready state with legal operands: what its body's result leaves. -/
theorem command_ready {i : Instr} {body : Body} {s : State} (h : s.Ready) (hw : i.wellFormed = true) (hi : i ≠ .nop) :
    command i body s = .next (match body (s.accepted.setBusy true) with
      | .ok _ t => t.setBusy false
      | .raise k t => t.stop k i.opcode false) := by
  cases hb : body (s.accepted.setBusy true) with
  | ok a t => exact command_ok h hw hi hb
  | raise k t => exact command_raise h hw hi hb

/-- A list of values put into consecutive slots. -/
def State.fillSlots (s : State) (rd : Nat) : List (List Byte) → State
  | [] => s
  | v :: vs => (s.setSlot rd (some v)).fillSlots (rd + 1) vs

theorem State.fillSlots_eq (s : State) (rd : Nat) (vs : List (List Byte)) :
    s.fillSlots rd vs = { s with slots := (s.fillSlots rd vs).slots } := by
  induction vs generalizing s rd with
  | nil => rfl
  | cons v vs ih => rw [State.fillSlots, ih]; rfl

@[simp] theorem State.remaining_fillSlots (s : State) (rd : Nat) (vs : List (List Byte)) :
    (s.fillSlots rd vs).remaining = s.remaining := by
  rw [State.fillSlots_eq]; rfl

@[simp] theorem State.queue_fillSlots (s : State) (rd : Nat) (vs : List (List Byte)) :
    (s.fillSlots rd vs).queue = s.queue := by
  rw [State.fillSlots_eq]; rfl

theorem State.fillSlots_append (s : State) (rd : Nat) (us vs : List (List Byte)) :
    s.fillSlots rd (us ++ vs) = (s.fillSlots rd us).fillSlots (rd + us.length) vs := by
  induction us generalizing s rd with
  | nil => simp [State.fillSlots]
  | cons v us ih => simp [State.fillSlots, ih, Nat.add_assoc, Nat.add_comm 1]

/-- What filling writes depends on the slots alone. -/
theorem State.fillSlots_slots {s t : State} (h : s.slots = t.slots) (rd : Nat) (vs : List (List Byte)) :
    (s.fillSlots rd vs).slots = (t.fillSlots rd vs).slots := by
  induction vs generalizing s t rd with
  | nil => exact h
  | cons v vs ih => exact ih (by simp [h]) _

theorem State.slot_fillSlots (s : State) {rd : Nat} {vs : List (List Byte)} (h : rd + vs.length ≤ 32) (j : Nat) :
    (s.fillSlots rd vs).slot j = if rd ≤ j ∧ j < rd + vs.length then vs[j - rd]? else s.slot j := by
  induction vs generalizing s rd with
  | nil => rw [State.fillSlots, if_neg (by simp)]
  | cons v vs ih =>
    simp only [List.length_cons] at h ⊢
    rw [State.fillSlots, ih _ (by omega), State.slot_setSlot]
    by_cases h1 : j = rd
    · subst h1; simp; omega
    · by_cases h2 : rd + 1 ≤ j ∧ j < rd + 1 + vs.length
      · rw [if_pos h2, if_pos (by omega), show j - rd = (j - (rd + 1)) + 1 by omega]; simp
      · rw [if_neg h2, if_neg (by omega), if_neg (by omega)]

/-- A destination of `count` slots cleared and then filled from its first slot (R166, R195). -/
theorem State.slot_clear_fill {s t : State} {rd count : Nat} {vs : List (List Byte)} (hc : vs.length ≤ count)
    (hw : rd + count ≤ 32) (ht : t.slots = ((s.clearSlots rd count).fillSlots rd vs).slots) (j : Nat) :
    t.slot j = if rd ≤ j ∧ j < rd + count then vs[j - rd]? else s.slot j := by
  have e : t.slot j = ((s.clearSlots rd count).fillSlots rd vs).slot j := by simp [State.slot, ht]
  rw [e, State.slot_fillSlots _ (by omega), State.slot_clearSlots]
  by_cases h1 : rd ≤ j ∧ j < rd + vs.length
  · rw [if_pos h1, if_pos (by omega)]
  · rw [if_neg h1]
    by_cases h2 : rd ≤ j ∧ j < rd + count
    · rw [if_pos h2, if_pos h2, List.getElem?_eq_none (by omega)]
    · rw [if_neg h2, if_neg h2]

end Sys2Proof.Machine
end

