-- ==== Sys2Proof/Laws/FieldScan.lean ====
section
/-! SUPPORT. The marker search, the nibbles of bytes, and what the string reads can do. -/

namespace Sys2Proof.Machine

theorem indexOf_none {b : Byte} {l : List Byte} (h : b ∉ l) : indexOf b l = none := by
  induction l with
  | nil => rfl
  | cons x l ih =>
    simp only [List.mem_cons, not_or] at h
    simp [indexOf, Ne.symm h.1, ih h.2]

/-- The index found holds the byte, and no smaller one does. -/
theorem indexOf_some {b : Byte} {l : List Byte} {p : Nat} (h : indexOf b l = some p) :
    l[p]? = some b ∧ ∀ q < p, l[q]? ≠ some b := by
  induction l generalizing p with
  | nil => simp [indexOf] at h
  | cons x l ih =>
    simp only [indexOf] at h
    split at h
    · next hx => cases h; simp [hx]
    · next hx =>
      cases hl : indexOf b l with
      | none => simp [hl] at h
      | some q =>
        simp only [hl, Option.map_some, Option.some.injEq] at h
        subst h
        refine ⟨by simpa using (ih hl).1, fun r hr => ?_⟩
        cases r with
        | zero => simpa using hx
        | succ r => simpa using (ih hl).2 r (by omega)

/-- The first index that holds the byte is found. -/
theorem indexOf_eq {b : Byte} {l : List Byte} {p : Nat} (h : l[p]? = some b) (hq : ∀ q < p, l[q]? ≠ some b) :
    indexOf b l = some p := by
  induction l generalizing p with
  | nil => simp at h
  | cons x l ih =>
    cases p with
    | zero => simp only [List.getElem?_cons_zero, Option.some.injEq] at h; simp [indexOf, h]
    | succ p =>
      have h0 : x ≠ b := by simpa using hq 0 (by omega)
      have := ih (p := p) (by simpa using h) fun q hq' => by simpa using hq (q + 1) (by omega)
      simp [indexOf, h0, this]

theorem nibblesOf_eq_flatMap (bs : List Byte) :
    nibblesOf bs = bs.flatMap fun b => [b.extractLsb' 4 4, b.extractLsb' 0 4] := by
  induction bs with
  | nil => rfl
  | cons b bs ih => simp [nibblesOf, ih]

/-! ### One string (R161) -/

/-- What the scan splits off: bytes that are no delimiter, and the delimiter if there is one; what is left follows. -/
theorem splitAtDelim_cases (c : Config) (bs : List Byte) :
    (∀ b ∈ bs, isDelim c b = false) ∧ splitAtDelim c bs = (bs, none) ∨
      ∃ acc d rest, (∀ b ∈ acc, isDelim c b = false) ∧ isDelim c d = true ∧ bs = acc ++ d :: rest ∧
        splitAtDelim c bs = (acc, some d) := by
  induction bs with
  | nil => exact .inl ⟨by simp, rfl⟩
  | cons b bs ih =>
    by_cases hb : isDelim c b = true
    · exact .inr ⟨[], b, bs, by simp, hb, rfl, by simp [splitAtDelim, hb]⟩
    · have hb' : isDelim c b = false := by simpa using hb
      rcases ih with ⟨h, he⟩ | ⟨acc, d, rest, h, hd, hbs, he⟩
      · exact .inl ⟨List.forall_mem_cons.mpr ⟨hb', h⟩, by simp [splitAtDelim, hb', he]⟩
      · exact .inr ⟨b :: acc, d, rest, List.forall_mem_cons.mpr ⟨hb', h⟩, hd, by simp [hbs], by simp [splitAtDelim, hb', he]⟩

/-- All scan_string() can do. -/
theorem scanString_cases (s : State) :
    (∀ b ∈ s.remaining, isDelim s.config b = false) ∧
        scanString s = { acc := s.remaining, ended := true, state := s.advance s.remaining.length } ∨
      ∃ acc d rest, isDelim s.config d = true ∧ s.remaining = acc ++ d :: rest ∧
        scanString s = { acc := acc, ended := false, state := (s.advance (acc.length + 1)).latch d } := by
  rcases splitAtDelim_cases s.config s.remaining with ⟨h, he⟩ | ⟨acc, d, rest, _, hd, hr, he⟩
  · exact .inl ⟨h, by simp [scanString, he]⟩
  · exact .inr ⟨acc, d, rest, hd, hr, by simp [scanString, he]⟩

/-- A scan writes the cursor and the latch alone. -/
theorem scanString_state (s : State) :
    (scanString s).state = { s with
      cur := (scanString s).state.cur, lastDelim := (scanString s).state.lastDelim,
      ldValid := (scanString s).state.ldValid } := by
  rcases scanString_cases s with ⟨_, h⟩ | ⟨_, _, _, _, _, h⟩ <;> rw [h] <;> rfl

/-! ### A list of strings (R166) -/

/-- The reads of RDSTRS write the cursor, the latch and the slots alone. -/
theorem readStrings_state (rd n k : Nat) (s : State) :
    (readStrings rd n k s).2 = { s with
      cur := (readStrings rd n k s).2.cur, lastDelim := (readStrings rd n k s).2.lastDelim,
      ldValid := (readStrings rd n k s).2.ldValid, slots := (readStrings rd n k s).2.slots } := by
  induction n generalizing k s with
  | zero => rfl
  | succ n ih =>
    rw [readStrings]
    by_cases ha : (scanString s).acc = [] <;> by_cases he : (scanString s).ended = true <;>
      simp only [ha, he, if_true, if_false, Bool.false_eq_true]
    · rw [scanString_state]
    · rw [ih, scanString_state]
    · rw [State.setSlot, scanString_state]
    · rw [ih, State.setSlot, scanString_state]

/-- The registers after the scan of some fields. -/
def State.scanned (s : State) (fs : List Field) : State :=
  { s with
    cur := BitVec.ofNat 10 (s.cur.toNat + (fs.flatMap fieldBytes).length)
    lastDelim := (fs.map Prod.snd).getLast?.getD s.lastDelim
    ldValid := s.ldValid || !fs.isEmpty }

theorem State.scanned_cons (s : State) (f : Field) (fs : List Field) :
    ((s.advance (f.1.length + 1)).latch f.2).scanned fs = s.scanned (f :: fs) := by
  have h : ((f :: fs).flatMap fieldBytes).length = f.1.length + 1 + (fs.flatMap fieldBytes).length := by
    rw [List.flatMap_cons, List.length_append]
    simp [fieldBytes]
  simp only [State.scanned, State.advance, State.latch, h]
  congr 1
  · apply BitVec.eq_of_toNat_eq
    simp
    omega
  · cases fs with
    | nil => simp
    | cons g fs => simp [List.getLast?_cons]
  · simp

theorem State.remaining_scanned {s : State} {fs : List Field} {rest : List Byte}
    (h : s.remaining = fs.flatMap fieldBytes ++ rest) : (s.scanned fs).remaining = rest :=
  State.remaining_advance h

theorem length_keptStrings_le (fs : List Field) : (keptStrings fs).length ≤ fs.length := by
  unfold keptStrings
  exact le_trans (List.length_filter_le _ _) (by simp)

/-- Reads on fields: each is one attempt, the non-empty strings fill the slots. -/
theorem readStrings_fields {s : State} {fs : List Field} {rest : List Byte} (rd k n : Nat)
    (hf : ∀ f ∈ fs, fieldOk s.config f = true) (hr : s.remaining = fs.flatMap fieldBytes ++ rest) :
    readStrings rd (fs.length + n) k s =
      readStrings rd n (k + (keptStrings fs).length) ((s.scanned fs).fillSlots (rd + k) (keptStrings fs)) := by
  induction fs generalizing s k with
  | nil => simp [keptStrings, State.fillSlots, State.scanned]
  | cons f fs ih =>
    have hr1 : s.remaining = fieldBytes f ++ (fs.flatMap fieldBytes ++ rest) := by simpa using hr
    have hsc := scanString_field hr1 (hf f (by simp))
    have hrem : ((s.advance (f.1.length + 1)).latch f.2).remaining = fs.flatMap fieldBytes ++ rest := by
      have h := State.remaining_advance hr1
      rw [show (fieldBytes f).length = f.1.length + 1 by simp [fieldBytes]] at h
      exact h
    rw [show (f :: fs).length + n = (fs.length + n) + 1 by simp; omega, readStrings]
    simp only [hsc, Bool.false_eq_true, if_false]
    by_cases ha : f.1 = []
    · simp only [ha, if_true, List.length_nil]
      have h := ih (s := (s.advance (f.1.length + 1)).latch f.2) k (fun g hg => hf g (by simp [hg])) hrem
      rw [State.scanned_cons, ha] at h
      simp only [List.length_nil] at h
      rw [h]
      simp [keptStrings, ha]
    · simp only [ha, if_false]
      rw [ih (s := ((s.advance (f.1.length + 1)).latch f.2).setSlot (rd + k) (some f.1)) (k + 1)
        (fun g hg => hf g (by simp [hg])) hrem]
      have hk : keptStrings (f :: fs) = f.1 :: keptStrings fs := by simp [keptStrings, ha]
      rw [hk, ← State.scanned_cons]
      simp only [State.fillSlots, List.length_cons]
      rw [show rd + (k + 1) = rd + k + 1 by omega,
        show k + 1 + (keptStrings fs).length = k + ((keptStrings fs).length + 1) by omega]
      rfl

end Sys2Proof.Machine
end

