-- ==== Sys2Proof/Laws/ModExp.lean ====
section
/-! SUPPORT. Integers and bytes, byte lengths, the exponentiation loop, and what decrypting a block does. -/

namespace Sys2Proof.Machine

set_option exponentiation.threshold 2000

/-! ### Integers and bytes (R71) -/

theorem beInt_foldl (bs : List Byte) (a : Nat) :
    bs.foldl (fun v b => v * 256 + b.toNat) a = a * 256 ^ bs.length + beInt bs := by
  induction bs generalizing a with
  | nil => simp [beInt]
  | cons b bs ih =>
    simp only [List.foldl_cons, List.length_cons, beInt]
    rw [ih, ih]
    ring

theorem beInt_cons (b : Byte) (bs : List Byte) : beInt (b :: bs) = b.toNat * 256 ^ bs.length + beInt bs := by
  rw [beInt, List.foldl_cons, beInt_foldl]
  simp

theorem beInt_lt (bs : List Byte) : beInt bs < 256 ^ bs.length := by
  induction bs with
  | nil => simp [beInt]
  | cons b bs ih =>
    have := b.isLt
    rw [beInt_cons, List.length_cons, pow_succ]
    nlinarith

@[simp] theorem length_beBytes (v k : Nat) : (beBytes v k).length = k := by
  induction k with
  | zero => rfl
  | succ k ih => simp [beBytes, ih]

/-- The k-byte encoding holds the integer modulo 256^k. -/
theorem beInt_beBytes (v k : Nat) : beInt (beBytes v k) = v % 256 ^ k := by
  induction k with
  | zero => simp [beBytes, beInt, Nat.mod_one]
  | succ k ih =>
    have h8 : (2 : Nat) ^ 8 = 256 := by norm_num
    rw [beBytes, beInt_cons, length_beBytes, ih, BitVec.toNat_ofNat, show (256 : Nat) ^ (k + 1) = 256 ^ k * 256 from pow_succ _ _,
      Nat.mod_mul, h8, Nat.mul_comm (256 ^ k), Nat.add_comm]

/-! ### The natural byte length (R144) -/

/-- A positive integer lies between the powers of 256 its byte length names. -/
theorem byteLen_bounds (c : Config) {v : Nat} (h : v ≠ 0) : v < 256 ^ byteLen c v ∧ 256 ^ (byteLen c v - 1) ≤ v := by
  have h1 := Nat.lt_log2_self (n := v)
  have h2 := Nat.log2_self_le h
  have e : ∀ k, (256 : Nat) ^ k = 2 ^ (8 * k) := fun k => by rw [pow_mul]; norm_num
  rw [byteLen, if_neg h, e, e]
  exact ⟨lt_of_lt_of_le h1 (Nat.pow_le_pow_right (by norm_num) (by omega)),
    le_trans (Nat.pow_le_pow_right (by norm_num) (by omega)) h2⟩

/-- The byte length is at most any positive length the integer fits in. -/
theorem byteLen_le {c : Config} {v k : Nat} (hk : 1 ≤ k) (h : v < 256 ^ k) : byteLen c v ≤ k := by
  by_cases h0 : v = 0
  · have := c.zeroResultLen.isLt
    rw [byteLen, if_pos h0]
    omega
  · have h2 := (byteLen_bounds c h0).2
    by_contra hc
    have : 256 ^ k ≤ 256 ^ (byteLen c v - 1) := Nat.pow_le_pow_right (by norm_num) (by omega)
    omega

theorem byteLen_le_128 {c : Config} {v : Nat} (h : v < 2 ^ 1024) : byteLen c v ≤ 128 :=
  byteLen_le (by norm_num) (by rwa [show (256 : Nat) = 2 ^ 8 by norm_num, ← pow_mul])

/-- An integer fits the bytes of its length. -/
theorem lt_pow_byteLen (c : Config) (v : Nat) : v < 256 ^ byteLen c v := by
  by_cases h0 : v = 0
  · rw [h0]
    exact Nat.pow_pos (by norm_num)
  · exact (byteLen_bounds c h0).1

@[simp] theorem length_naturalBytes (c : Config) (v : Nat) : (naturalBytes c v).length = byteLen c v := length_beBytes _ _

/-! ### Exponentiation (R143) -/

theorem shiftRight_step (e i : Nat) : e >>> i = 2 * (e >>> (i + 1)) + if e.testBit i then 1 else 0 := by
  have h1 : e >>> (i + 1) = (e >>> i) / 2 := by rw [Nat.shiftRight_succ]
  have h2 : e.testBit i = decide ((e >>> i) % 2 = 1) := by
    rw [Nat.testBit_eq_decide_div_mod_eq, Nat.shiftRight_eq_div_pow]
  rw [h1, h2]
  simp only [decide_eq_true_eq]
  split <;> omega

/-- The loop's invariant: with the bits from i upward done, r is x to the power of those bits. -/
theorem modexpLoop_eq {x e n i r : Nat} (hr : r = x ^ (e >>> i) % n) : modexpLoop (x % n) e n i r = x ^ e % n := by
  induction i generalizing r with
  | zero => simpa [modexpLoop] using hr
  | succ i ih =>
    rw [modexpLoop]
    apply ih
    have h := shiftRight_step e i
    by_cases hb : e.testBit i = true
    · simp only [hb, if_true] at h ⊢
      rw [h, pow_succ, two_mul, pow_add, hr]
      simp [Nat.mul_mod, Nat.pow_mod]
    · simp only [hb, Bool.false_eq_true, if_false, Nat.add_zero] at h ⊢
      rw [h, two_mul, pow_add, hr]
      simp [Nat.mul_mod, Nat.pow_mod]

/-- The reference algorithm computes the power. -/
theorem modexpValue_eq (x n : Nat) {e : Nat} (he : e < 2 ^ 1024) : modexpValue x e n = x ^ e % n := by
  refine modexpLoop_eq ?_
  rw [Nat.shiftRight_eq_div_pow, Nat.div_eq_of_lt he, pow_zero]

/-! ### Decrypting a block (R148) -/

theorem blockValue_lt (raw : Memory 8) (k : Nat) : blockValue raw k < 2 ^ 1024 := by
  refine lt_of_lt_of_le (beInt_lt (raw.readRange (blockStart k) (blockLen k))) ?_
  rw [Memory.length_readRange, show (256 : Nat) = 2 ^ 8 by norm_num, ← pow_mul]
  apply Nat.pow_le_pow_right (by norm_num)
  rw [blockLen]
  split <;> omega

theorem blockPlain_lt {raw : Memory 8} {k : Nat} {key : KeyParams} (h : key.n ≠ 0) :
    blockPlain raw k key < key.n.toNat := by
  apply Nat.mod_lt
  rcases Nat.eq_zero_or_pos key.n.toNat with h0 | h0
  · exact absurd (BitVec.eq_of_toNat_eq (by simpa using h0)) h
  · exact h0

/-- The MEU registers after block k went through MODEXP with a key. -/
def State.decrypted (s : State) (k : Nat) (key : KeyParams) : State :=
  { s with
    mx := BitVec.ofNat 1024 (blockValue s.raw k)
    mn := key.n
    me := key.e
    mr := BitVec.ofNat 1024 (blockPlain s.raw k key)
    mrLen := BitVec.ofNat 8 (byteLen s.config (blockPlain s.raw k key)) }

/-- And its result appended. -/
def State.decryptedAppended (s : State) (k : Nat) (key : KeyParams) : State :=
  { s.decrypted k key with
    dbuf := s.dbuf.writeRange s.dlen.toNat (naturalBytes s.config (blockPlain s.raw k key))
    dlen := BitVec.ofNat 10 (s.dlen.toNat + byteLen s.config (blockPlain s.raw k key)) }

theorem decryptBlock_length {s : State} {k : Nat} (h : s.rawLen ≠ 720#16) :
    decryptBlock k s = .raise .insufficientBytes s := by
  simp [decryptBlock, Body.andThen, loadBlock, lengthCheck, h]

theorem decryptBlock_no_version {s : State} {k : Nat} (h : s.rawLen = 720#16) (hv : s.ver = .none) :
    decryptBlock k s = .raise .configError { s with mx := BitVec.ofNat 1024 (blockValue s.raw k) } := by
  simp [decryptBlock, Body.andThen, loadBlock, lengthCheck, h, loadKey, hv, keyOf]

/-- All a decryption can do once there is an input and a key. -/
theorem decryptBlock_key {s : State} {k : Nat} {key : KeyParams} (h : s.rawLen = 720#16)
    (hk : keyOf s.config s.ver (classOfBlock k) = some key) (hn : key.n ≠ 0) :
    decryptBlock k s =
      if s.dlen.toNat + byteLen s.config (blockPlain s.raw k key) ≤ 768 then .ok () (s.decryptedAppended k key)
      else .raise .illegalCommand (s.decrypted k key) := by
  have hp : blockPlain s.raw k key < 2 ^ 1024 := lt_trans (blockPlain_lt hn) key.n.isLt
  have hb : byteLen s.config (blockPlain s.raw k key) ≤ 128 := byteLen_le_128 hp
  have hv : modexpValue (blockValue s.raw k % 2 ^ 1024) key.e.toNat key.n.toNat = blockPlain s.raw k key := by
    rw [Nat.mod_eq_of_lt (blockValue_lt _ _), modexpValue_eq _ _ key.e.isLt, blockPlain]
  have hm : byteLen s.config (blockPlain s.raw k key) % 2 ^ 8 = byteLen s.config (blockPlain s.raw k key) :=
    Nat.mod_eq_of_lt (by omega)
  have hn' : ¬key.n = 0#1024 := hn
  simp only [decryptBlock, Body.andThen, loadBlock, lengthCheck, h, loadKey, hk, Res.bind_ok, if_true, modexp, append, hn',
    if_false, BitVec.toNat_ofNat, hv]
  rw [hm, Nat.mod_eq_of_lt hp]
  by_cases hc : s.dlen.toNat + byteLen s.config (blockPlain s.raw k key) ≤ 768
  · rw [if_neg (by omega), if_pos hc]
    simp [State.decryptedAppended, State.decrypted, naturalBytes, h]
  · rw [if_pos (by omega), if_neg hc]
    simp [State.decrypted, h]

end Sys2Proof.Machine
end

