-- ==== Sys2Proof/Laws/Nibble.lean ====
section
/-! SUPPORT. What pops, date groups and lists of date groups can do. -/

namespace Sys2Proof.Machine

/-- A pop writes NQH alone. -/
theorem pop_state (s : State) : (pop s).state = { s with nqh := (pop s).state.nqh } := by
  unfold pop
  split <;> rfl

/-- Pops write NQH alone. -/
theorem popMany_state (n : Nat) (s : State) : (popMany n s).state = { s with nqh := (popMany n s).state.nqh } := by
  induction n generalizing s with
  | zero => rfl
  | succ n ih =>
    have hp := pop_state s
    rw [popMany]
    cases h : pop s with
    | raise k t => rw [h] at hp; simpa using hp
    | ok v t =>
      rw [h] at hp
      have ht := ih t
      rw [Res.bind_ok]
      cases h2 : popMany n t with
      | raise k u => rw [h2] at ht; simp only [Res.bind_raise, Res.state_raise, Res.state_ok] at *; rw [ht, hp]
      | ok vs u => rw [h2] at ht; simp only [Res.bind_ok, Res.state_ok] at *; rw [ht, hp]

/-! ### One group (R193) -/

/-- The absence marker. -/
theorem dateGroup_absent {s : State} {rest : List Nibble} (h : s.queue = 10#4 :: rest) :
    dateGroup s = .ok none (s.popped 1) := by
  simp [dateGroup, pop_cons h]

/-- Eight nibbles that do not begin with the marker: their digits are checked after all are consumed. -/
theorem dateGroup_eight {s : State} {ds rest : List Nibble} (h : s.queue = ds ++ rest) (hl : ds.length = 8)
    (hn : ds.head? ≠ some 10#4) :
    dateGroup s = match digitChars ds with
      | none => .raise .unspecified (s.popped 8)
      | some cs => .ok (some (dateText cs)) (s.popped 8) := by
  match ds, hl with
  | d :: ds, hl =>
    have hl : ds.length = 7 := by simpa using hl
    have h' : s.queue = d :: (ds ++ rest) := by simpa using h
    have h1 : (s.popped 1).queue = ds ++ rest := State.queue_popped (vs := [d]) (by simpa using h)
    have hq := State.length_queue s
    have ht := s.nqt.isLt
    rw [h'] at hq
    simp only [List.length_cons, List.length_append, hl] at hq
    simp only [List.head?_cons, ne_eq, Option.some.injEq] at hn
    have h8 : (s.popped 1).popped ds.length = s.popped 8 := by rw [State.popped_popped (by omega), hl]
    rw [dateGroup, pop_cons h', Res.bind_ok, if_neg hn, ← hl, popMany_ok h1, Res.bind_ok, h8]
    all_goals (cases digitChars (d :: ds) <;> rfl)

theorem dateGroup_present {s : State} {ds rest : List Nibble} (h : s.queue = ds ++ rest) (hl : ds.length = 8)
    (hd : ∀ d ∈ ds, d.toNat ≤ 9) : dateGroup s = .ok (some (dateText (ds.map digitByte))) (s.popped 8) := by
  have hn : ds.head? ≠ some 10#4 := by
    intro hc
    have := hd 10#4 (List.mem_of_mem_head? hc)
    exact absurd this (by decide)
  rw [dateGroup_eight h hl hn, digitChars_ok hd]

theorem dateGroup_bad {s : State} {ds rest : List Nibble} (h : s.queue = ds ++ rest) (hl : ds.length = 8)
    (hn : ds.head? ≠ some 10#4) (hd : ∃ d ∈ ds, 9 < d.toNat) : dateGroup s = .raise .unspecified (s.popped 8) := by
  rw [dateGroup_eight h hl hn, digitChars_none hd]

/-- Underflow: all of the queue is consumed. -/
theorem dateGroup_short {s : State} (h : s.queue.head? ≠ some 10#4) (hl : s.queue.length < 8) :
    dateGroup s = .raise .malformedField (s.popped s.queue.length) := by
  cases hq : s.queue with
  | nil => simp [dateGroup, pop_nil hq]
  | cons d ds =>
    have h1 : (s.popped 1).queue = ds := State.queue_popped (vs := [d]) (by simpa using hq)
    have hq' := State.length_queue s
    have ht := s.nqt.isLt
    rw [hq] at hq' hl h
    simp only [List.length_cons, List.head?_cons, ne_eq, Option.some.injEq] at hl hq' h
    rw [dateGroup, pop_cons hq, Res.bind_ok, if_neg h, popMany_short (by rw [h1]; omega), Res.bind_raise, h1,
      State.popped_popped (by omega)]
    simp [Nat.add_comm]

/-- A group writes NQH alone. -/
theorem dateGroup_state (s : State) : (dateGroup s).state = { s with nqh := (dateGroup s).state.nqh } := by
  have hp := pop_state s
  rw [dateGroup]
  cases h : pop s with
  | raise k t => rw [h] at hp; simpa using hp
  | ok v t =>
    rw [h] at hp
    rw [Res.bind_ok]
    by_cases hv : v = 10#4
    · rw [if_pos hv]; exact hp
    · have ht := popMany_state 7 t
      rw [if_neg hv]
      cases h2 : popMany 7 t with
      | raise k u => rw [h2] at ht; simp only [Res.bind_raise, Res.state_raise, Res.state_ok] at *; rw [ht, hp]
      | ok vs u =>
        rw [h2] at ht
        rw [Res.bind_ok]
        cases digitChars (v :: vs) <;> simp only [Res.state_raise, Res.state_ok] at * <;> rw [ht, hp]

/-! ### A list of groups (R195) -/

/-- The groups of DATEL write NQH and the slots alone. -/
theorem readDates_state (rd n k : Nat) (s : State) :
    (readDates rd n k s).state = { s with
      nqh := (readDates rd n k s).state.nqh, slots := (readDates rd n k s).state.slots } := by
  induction n generalizing k s with
  | zero => rfl
  | succ n ih =>
    have hg := dateGroup_state s
    rw [readDates]
    cases h : dateGroup s with
    | raise e t => rw [h] at hg; simp only [Res.bind_raise, Res.state_raise] at *; rw [hg]
    | ok g t =>
      rw [h] at hg
      rw [Res.bind_ok]
      cases g with
      | none => simp only [Res.state_ok] at *; rw [ih, hg]
      | some d => simp only [Res.state_ok] at *; rw [ih, State.setSlot, hg]

/-- Reads on groups that decode: the present dates fill the slots. -/
theorem readDates_groups {s : State} {gs : List (Option (List Nibble))} {rest : List Nibble} (rd k n : Nat)
    (hg : ∀ g ∈ gs, groupOk g = true) (hq : s.queue = gs.flatMap groupNibbles ++ rest) :
    readDates rd (gs.length + n) k s = readDates rd n (k + (gs.filterMap id).length)
      ((s.popped (gs.flatMap groupNibbles).length).fillSlots (rd + k)
        ((gs.filterMap id).map fun ds => dateText (ds.map digitByte))) := by
  induction gs generalizing s k with
  | nil => simp [State.fillSlots]
  | cons g gs ih =>
    have ht := s.nqt.isLt
    rw [show (g :: gs).length + n = (gs.length + n) + 1 by simp; omega, readDates]
    cases g with
    | none =>
      have h1 : s.queue = [10#4] ++ (gs.flatMap groupNibbles ++ rest) := by simpa [groupNibbles] using hq
      have hl := congrArg List.length h1
      rw [State.length_queue] at hl
      simp only [List.length_append, List.length_singleton] at hl
      rw [dateGroup_absent h1, Res.bind_ok]
      simp only
      rw [ih (s := s.popped 1) k (fun g h => hg g (by simp [h])) (State.queue_popped (vs := [10#4]) h1),
        State.popped_popped (by omega)]
      have e : (none :: gs).flatMap groupNibbles = [10#4] ++ gs.flatMap groupNibbles := rfl
      rw [e, List.length_append]
      rfl
    | some ds =>
      have hgd : ds.length = 8 ∧ ∀ d ∈ ds, d.toNat ≤ 9 := by simpa [groupOk] using hg (some ds) (by simp)
      have h1 : s.queue = ds ++ (gs.flatMap groupNibbles ++ rest) := by simpa [groupNibbles] using hq
      have hl := congrArg List.length h1
      rw [State.length_queue] at hl
      simp only [List.length_append, hgd.1] at hl
      rw [dateGroup_present h1 hgd.1 hgd.2, Res.bind_ok]
      simp only
      rw [ih (s := (s.popped 8).setSlot (rd + k) _) (k + 1) (fun g h => hg g (by simp [h]))
        (by rw [State.queue_setSlot, ← hgd.1]; exact State.queue_popped h1)]
      have e : (some ds :: gs).flatMap groupNibbles = ds ++ gs.flatMap groupNibbles := rfl
      rw [e, List.length_append, hgd.1, ← State.popped_popped (s := s) (a := 8) (by omega),
        show k + (((some ds) :: gs).filterMap id).length = k + 1 + (gs.filterMap id).length by simp; omega]
      rfl

end Sys2Proof.Machine
end

