-- ==== Sys2Proof/Laws/PerInstr.lean ====
section
/-! SUPPORT. Facts about every command as syntax, one lemma per constructor. -/

namespace Sys2Proof

/-- The four fields of a command's word are its opcode, three zero bits, its rd and its imm (R100, R101). -/
theorem encode_fields (i : Instr) :
    opField (encode i) = i.opcode ∧ zField (encode i) = 0 ∧ rdField (encode i) = i.rdBits ∧
      immField (encode i) = i.immBits := by
  simp only [opField, zField, rdField, immField, encode]
  refine ⟨?_, ?_, ?_, ?_⟩ <;> apply BitVec.eq_of_getLsbD_eq <;> intro k hk <;>
    simp only [BitVec.getLsbD_extractLsb', BitVec.getLsbD_append] <;> (interval_cases k <;> simp)

namespace Laws.EncodedRow

/-- The word of a command carries the opcode of its table row, zero in every bit its format requires to be 0, and its
operands in the fields R100 gives them. -/
def Statement (i : Instr) : Prop :=
  opField (encode i) = i.opcode ∧ zField (encode i) = 0 ∧ rdField (encode i) = i.rdBits ∧ immField (encode i) = i.immBits

theorem nop : Statement .nop := encode_fields _
theorem clr : Statement .clr := encode_fields _
theorem run : Statement .run := encode_fields _
theorem chklen : Statement .chklen := encode_fields _
theorem verdet : Statement .verdet := encode_fields _
theorem ldkey (cls : BitVec 16) : Statement (.ldkey cls) := encode_fields _
theorem ldblk (k : BitVec 16) : Statement (.ldblk k) := encode_fields _
theorem modexp : Statement .modexp := encode_fields _
theorem append : Statement .append := encode_fields _
theorem decblk (k : BitVec 16) : Statement (.decblk k) := encode_fields _
theorem assemble : Statement .assemble := encode_fields _
theorem seek : Statement .seek := encode_fields _
theorem rdstrs (rd : BitVec 5) (count : BitVec 16) : Statement (.rdstrs rd count) := encode_fields _
theorem rdstr (rd : BitVec 5) : Statement (.rdstr rd) := encode_fields _
theorem rdopt (rd : BitVec 5) : Statement (.rdopt rd) := encode_fields _
theorem rdraw (rd : BitVec 5) (n : BitVec 16) : Statement (.rdraw rd n) := encode_fields _
theorem rddec2 (rd : BitVec 5) : Statement (.rddec2 rd) := encode_fields _
theorem skip (n : BitVec 16) : Statement (.skip n) := encode_fields _
theorem nqload : Statement .nqload := encode_fields _
theorem dateg (rd : BitVec 5) : Statement (.dateg rd) := encode_fields _
theorem datel (rd : BitVec 5) (count : BitVec 16) : Statement (.datel rd count) := encode_fields _
theorem code (rd : BitVec 5) (width : BitVec 16) : Statement (.code rd width) := encode_fields _
theorem gender (rd : BitVec 5) : Statement (.gender rd) := encode_fields _

end Laws.EncodedRow

end Sys2Proof
end

