-- ==== Sys2Proof/Tests/Slice0.lean ====
section
/-! SUPPORT. Tests and witnesses. Expected results come from 95_test_vectors.md (cited as V2.1 to V2.6 by its sections) or
from the cited rule worked by hand. -/

namespace Sys2Proof.Tests

open Sys2Proof.Machine

set_option maxRecDepth 20000
set_option exponentiation.threshold 2000

/-! ### Start states -/

/-- The parameter set TP of 95_test_vectors.md, but for the V1 keys, which are small here. -/
def tp : Config where
  magicV1 := #v[0x57#8, 0x4C#8, 0x44#8, 0x31#8]
  magicV2 := #v[0x57#8, 0x4C#8, 0x44#8, 0x32#8]
  keyV1Large := { n := 497#1024, e := 13#1024 }
  keyV1Trail := { n := 1000#1024, e := 10#1024 }
  keyV2Large := { n := BitVec.allOnes 1024, e := 1#1024 }
  keyV2Trail := { n := (BitVec.allOnes 592).setWidth 1024, e := 1#1024 }
  marker := 0xAA#8
  term := 0xBB#8
  extraDelim := .b
  isLegal := by decide +kernel

/-- The state after reset, under TP. -/
def start : State := { State.reset with config := tp }

/-- DBUF holds the given bytes. -/
def onBuffer (bs : List Byte) : State :=
  { start with dbuf := Memory.writeRange [] 0 bs, dlen := BitVec.ofNat 10 bs.length }

/-- NQ holds the given nibbles. -/
def onQueue (ns : List Nibble) : State :=
  { start with nq := Memory.writeRange [] 0 ns, nqt := BitVec.ofNat 11 ns.length }

/-- RAW begins with the given bytes, RAWLEN is as given. -/
def onRaw (bs : List Byte) (len : BitVec 16) : State :=
  { start with raw := Memory.writeRange [] 0 bs, rawLen := len }

/-- The three operand registers. -/
def onOperands (x e n : BigWord) : State := { start with mx := x, me := e, mn := n }

/-- The state after a command. -/
def after (i : Instr) (s : State) : State :=
  match exec i s with
  | .next t => t
  | .fault _ => s
  | .refused _ => s

/-- The state after a step. -/
def stepped (s : State) : State :=
  match step s with
  | .next t => t
  | .fault _ => s
  | .refused _ => s

/-- ASCII text as bytes. -/
def ascii (t : String) : List Byte := t.toList.map fun ch => BitVec.ofNat 8 ch.toNat

/-! ### Operand ranges: an ill-formed term for each check (R107) -/

theorem test_illformed_ldkey : (Instr.ldkey 2#16).wellFormed = false := by decide
theorem test_illformed_ldblk : (Instr.ldblk 6#16).wellFormed = false := by decide
theorem test_illformed_decblk : (Instr.decblk 6#16).wellFormed = false := by decide
theorem test_illformed_rdstrs : (Instr.rdstrs 30#5 3#16).wellFormed = false := by decide
theorem test_illformed_datel : (Instr.datel 29#5 4#16).wellFormed = false := by decide
theorem test_illformed_code : (Instr.code 0#5 769#16).wellFormed = false := by decide
theorem test_wellformed_corners :
    (Instr.rdstrs 29#5 3#16).wellFormed = true ∧ (Instr.datel 28#5 4#16).wellFormed = true ∧
      (Instr.code 0#5 768#16).wellFormed = true ∧ (Instr.ldkey 1#16).wellFormed = true := by decide

/-! ### Words written out from R100, R101 and R104: op, z, rd, imm -/

theorem test_word_nop : decode 0b00000000000000000000000000000000#32 = .ok .nop := by decide
theorem test_word_clr : decode 0b00000001000000000000000000000000#32 = .ok .clr := by decide
theorem test_word_run : decode 0b00000010000000000000000000000000#32 = .ok .run := by decide
theorem test_word_chklen : decode 0b00010000000000000000000000000000#32 = .ok .chklen := by decide
theorem test_word_verdet : decode 0b00010001000000000000000000000000#32 = .ok .verdet := by decide
theorem test_word_ldkey : decode 0b00010010000000000000000000000001#32 = .ok (.ldkey 1#16) := by decide
theorem test_word_ldblk : decode 0b00011000000000000000000000000101#32 = .ok (.ldblk 5#16) := by decide
theorem test_word_modexp : decode 0b00011001000000000000000000000000#32 = .ok .modexp := by decide
theorem test_word_append : decode 0b00011010000000000000000000000000#32 = .ok .append := by decide
theorem test_word_decblk : decode 0b00011011000000000000000000000100#32 = .ok (.decblk 4#16) := by decide
theorem test_word_assemble : decode 0b00011100000000000000000000000000#32 = .ok .assemble := by decide
theorem test_word_seek : decode 0b00100000000000000000000000000000#32 = .ok .seek := by decide
theorem test_word_rdstrs : decode 0b00100001000010000000000000000011#32 = .ok (.rdstrs 8#5 3#16) := by decide
theorem test_word_rdstr : decode 0b00100010000010110000000000000000#32 = .ok (.rdstr 11#5) := by decide
theorem test_word_rdopt : decode 0b00100011000001010000000000000000#32 = .ok (.rdopt 5#5) := by decide
theorem test_word_rdraw : decode 0b00100100000011000000000000001101#32 = .ok (.rdraw 12#5 13#16) := by decide
theorem test_word_rddec2 : decode 0b00100101000011010000000000000000#32 = .ok (.rddec2 13#5) := by decide
theorem test_word_skip : decode 0b00100110000000000000000000000011#32 = .ok (.skip 3#16) := by decide
theorem test_word_nqload : decode 0b00100111000000000000000000000000#32 = .ok .nqload := by decide
theorem test_word_dateg : decode 0b00110000000100110000000000000000#32 = .ok (.dateg 19#5) := by decide
theorem test_word_datel : decode 0b00110001000011100000000000000100#32 = .ok (.datel 14#5 4#16) := by decide
theorem test_word_code : decode 0b00110010000100100000000000000010#32 = .ok (.code 18#5 2#16) := by decide
theorem test_word_gender : decode 0b00110011000110000000000000000000#32 = .ok (.gender 24#5) := by decide

/-- V2.1: reserved opcodes, then a 1 where the format requires 0. -/
theorem test_word_reserved :
    decode 0x03000000#32 = .error .reservedOpcode ∧ decode 0xFF000000#32 = .error .reservedOpcode ∧
      decode 0x00000001#32 = .error .reservedField ∧ decode 0x02010000#32 = .error .reservedField ∧
      decode 0x22200000#32 = .error .reservedField ∧ decode 0x22030001#32 = .error .reservedField := by decide

/-! ### Commands -/

/-- V2.6: NOP leaves RECVALID; R211. -/
theorem test_nop_keeps_record : (after .nop { start with recValid := true }).recValid = true := by decide

/-- V2.6: CLR leaves the error state. -/
theorem test_clr_leaves_error :
    (after .clr { onRaw [1#8] 1#16 with err := some .malformedField, einfo := 5#32 }).status = 0#32 ∧
      (after .clr { onRaw [1#8] 1#16 with err := some .malformedField }).rawLen = 0#16 := by decide

/-- V1: RUN on a short input stops with ERR = 1 at UPC 0; EINFO has CHKLEN's opcode and ERUN (R214, R36). -/
theorem test_run_short_input :
    (after .run start).err = some .insufficientBytes ∧ (after .run start).einfo = 0x80000010#32 := by decide

/-- V2.6: a command in the error state is ignored. -/
theorem test_run_ignored_in_error :
    (after .run { start with err := some .malformedField, einfo := 0x20#32 }).einfo = 0x20#32 := by decide

/-- V2.2: RAWLEN = 0. -/
theorem test_chklen_stops : (after .chklen start).einfo = 0x00000010#32 := by decide

/-- V2.2: RAWLEN = 720. -/
theorem test_chklen_passes : (after .chklen (onRaw [] 720#16)).err = none := by decide

/-- V2.2: STATUS = 0x00000008. -/
theorem test_verdet_v2 : (after .verdet (onRaw [0x57#8, 0x4C#8, 0x44#8, 0x32#8] 720#16)).status = 8#32 := by decide

/-- V2.2: no partial matching. -/
theorem test_verdet_partial :
    (after .verdet (onRaw [0x57#8, 0x4C#8, 0x44#8] 720#16)).err = some .unknownVersion := by decide

/-- V2.2: ConfigError with no version. -/
theorem test_ldkey_no_version : (after (.ldkey 0#16) start).einfo = 0x00000012#32 := by decide

/-- V2.2: VER = 2, class 1. -/
theorem test_ldkey_trail :
    (after (.ldkey 1#16) { start with ver := .v2 }).mn.toNat = 2 ^ 592 - 1 ∧
      (after (.ldkey 1#16) { start with ver := .v2 }).me = 1#1024 := by decide +kernel

/-- V2.3: block 0, 80 then 127 bytes 00. -/
theorem test_ldblk_first :
    (after (.ldblk 0#16) (onRaw [0#8, 0#8, 0#8, 0#8, 0#8, 0#8, 0x80#8] 720#16)).mx.toNat = 2 ^ 1023 := by decide +kernel

/-- V2.3: block 5, 73 bytes 00 then 01. -/
theorem test_ldblk_last :
    (after (.ldblk 5#16) { start with raw := [(719, 1#8)], rawLen := 720#16 }).mx = 1#1024 := by decide +kernel

/-- V2.3: 4^13 mod 497 = 445, two bytes. -/
theorem test_modexp_small :
    (after .modexp (onOperands 4#1024 13#1024 497#1024)).mr = 445#1024 ∧
      (after .modexp (onOperands 4#1024 13#1024 497#1024)).mrLen = 2#8 := by decide +kernel

/-- V2.3: the 32-bit case. -/
theorem test_modexp_word :
    (after .modexp (onOperands 0x075BCD15#1024 0x10001#1024 0xFFFFFFFB#1024)).mr = 0xE9DEDBB5#1024 := by decide +kernel

/-- V2.3: MR = 0x1BD, MRLEN = 2, DLEN = 0. -/
theorem test_append_bytes :
    (after .append { start with mr := 0x1BD#1024, mrLen := 2#8 }).dbuf = [(0, 0x01#8), (1, 0xBD#8)] ∧
      (after .append { start with mr := 0x1BD#1024, mrLen := 2#8 }).dlen = 2#10 := by decide +kernel

/-- V2.3: 641 + 128 = 769. -/
theorem test_append_overflow :
    (after .append { start with mrLen := 128#8, dlen := 641#10 }).err = some .illegalCommand := by decide

/-- V2.3: block 1 begins with 00, the rest 22: 127 bytes are appended. -/
theorem test_decblk_drops_zero :
    (after (.decblk 1#16) { onRaw [] 720#16 with
      ver := .v2, raw := Memory.writeRange [] 135 (List.replicate 127 0x22#8) }).dlen = 127#10 := by decide +kernel

/-- V2.3: VER = 0. -/
theorem test_decblk_no_version : (after (.decblk 0#16) (onRaw [] 720#16)).err = some .configError := by decide +kernel

/-- R149, R144: six zero blocks give six bytes 00. -/
theorem test_assemble_zero_blocks :
    (after .assemble { onRaw [] 720#16 with ver := .v2, dlen := 9#10, cur := 4#10 }).dlen = 6#10 ∧
      (after .assemble { onRaw [] 720#16 with ver := .v2, dlen := 9#10, cur := 4#10 }).cur = 0#10 := by decide +kernel

/-- V2.4: the first marker. -/
theorem test_seek_first : (after .seek (onBuffer [0x00#8, 0xAA#8, 0x01#8, 0xAA#8, 0x05#8])).cur = 3#10 := by decide

/-- V2.4: a marker at DLEN - 1. -/
theorem test_seek_at_end : (after .seek (onBuffer [0x00#8, 0xAA#8])).err = some .malformedField := by decide

/-- V2.4: results packed, the empty middle string leaves no gap. -/
theorem test_rdstrs_packed :
    (after (.rdstrs 4#5 3#16) (onBuffer [0x41#8, 0xE0#8, 0xE1#8, 0x42#8, 0xE0#8])).slotList 4 3 =
        [ascii "A", ascii "B"] ∧
      (after (.rdstrs 4#5 3#16) (onBuffer [0x41#8, 0xE0#8, 0xE1#8, 0x42#8, 0xE0#8])).lcnt = 2#6 := by decide

/-- V2.4: an unterminated string is kept without error. -/
theorem test_rdstrs_unterminated :
    (after (.rdstrs 0#5 2#16) (onBuffer [0x41#8, 0x42#8])).slot 0 = some (ascii "AB") ∧
      (after (.rdstrs 0#5 2#16) (onBuffer [0x41#8, 0x42#8])).ldValid = false := by decide

/-- V2.4: an empty string is present. -/
theorem test_rdstr_empty :
    (after (.rdstr 1#5) (onBuffer [0xE1#8])).slot 1 = some [] ∧
      (after (.rdstr 1#5) (onBuffer [0xE1#8])).lastDelim = 0xE1#8 := by decide

/-- V2.4: no delimiter, ECUR = 2. -/
theorem test_rdstr_unterminated : (after (.rdstr 1#5) (onBuffer [0x41#8, 0x42#8])).einfo = 0x00020022#32 := by decide

/-- V2.4: the latched delimiter announces the optional string. -/
theorem test_rdopt_present :
    (after (.rdopt 5#5) (after (.rdstr 4#5) (onBuffer [0x4A#8, 0xE1#8, 0x50#8, 0x31#8, 0xE0#8]))).slot 5 =
      some (ascii "P1") := by decide

/-- V2.4: it does not. -/
theorem test_rdopt_absent :
    (after (.rdopt 5#5) (after (.rdstr 4#5) (onBuffer [0x4A#8, 0xE0#8, 0x50#8, 0x31#8, 0xE0#8]))).slot 5 = none ∧
      (after (.rdopt 5#5) (after (.rdstr 4#5) (onBuffer [0x4A#8, 0xE0#8, 0x50#8, 0x31#8, 0xE0#8]))).cur = 2#10 := by
  decide

/-- V2.4: delimiters are data to RDRAW. -/
theorem test_rdraw_verbatim : (after (.rdraw 0#5 2#16) (onBuffer [0xFF#8, 0xE0#8])).slot 0 = some [0xFF#8, 0xE0#8] := by
  decide

/-- V2.4: nothing consumed at the raise. -/
theorem test_rdraw_short :
    (after (.rdraw 0#5 3#16) (onBuffer [0x01#8, 0xBD#8])).err = some .malformedField ∧
      (after (.rdraw 0#5 3#16) (onBuffer [0x01#8, 0xBD#8])).cur = 0#10 := by decide

/-- V2.4: 0x63 reads "99". -/
theorem test_rddec2_digits : (after (.rddec2 13#5) (onBuffer [0x63#8])).slot 13 = some (ascii "99") := by decide

/-- V2.4: 100 stops with ERR 7, ECUR = 1. -/
theorem test_rddec2_hundred : (after (.rddec2 13#5) (onBuffer [0x64#8])).einfo = 0x00010025#32 := by decide

/-- V2.4: SKIP to the end. -/
theorem test_skip_to_end : (after (.skip 3#16) (onBuffer [0x01#8, 0x02#8, 0x03#8])).cur = 3#10 := by decide

/-- V2.4: SKIP beyond the end. -/
theorem test_skip_beyond : (after (.skip 4#16) (onBuffer [0x01#8, 0x02#8, 0x03#8])).err = some .malformedField := by
  decide

/-- V2.4: NQ = [1,2,0,10,9,15], CUR = 4. -/
theorem test_nqload_nibbles :
    (after .nqload (onBuffer [0x12#8, 0x0A#8, 0x9F#8, 0xBB#8, 0x77#8])).queue = [1#4, 2#4, 0#4, 10#4, 9#4, 15#4] ∧
      (after .nqload (onBuffer [0x12#8, 0x0A#8, 0x9F#8, 0xBB#8, 0x77#8])).cur = 4#10 := by decide

/-- V2.4: no terminator, ECUR = 2. -/
theorem test_nqload_no_term : (after .nqload (onBuffer [0x12#8, 0x34#8])).einfo = 0x00020027#32 := by decide

/-- V4: "1209/05/15". -/
theorem test_dateg_date :
    (after (.dateg 0#5) (onQueue [1#4, 2#4, 0#4, 9#4, 0#4, 5#4, 1#4, 5#4])).slot 0 = some (ascii "1209/05/15") := by
  decide

/-- V2.5: underflow wins over a nibble above 9. -/
theorem test_dateg_underflow_wins : (after (.dateg 0#5) (onQueue [11#4, 0#4])).err = some .malformedField := by decide

/-- V2.5: two dates of four groups, packed. -/
theorem test_datel_packed :
    (after (.datel 4#5 4#16) (onQueue [2#4, 0#4, 2#4, 4#4, 0#4, 1#4, 3#4, 1#4, 10#4, 10#4, 1#4, 9#4, 9#4, 9#4, 1#4,
      2#4, 3#4, 1#4])).slotList 4 4 = [ascii "2024/01/31", ascii "1999/12/31"] := by decide

/-- V2.5: underflow at the fourth group. -/
theorem test_datel_underflow : (after (.datel 14#5 4#16) (onQueue [10#4, 10#4, 10#4])).err = some .malformedField := by
  decide

/-- V2.5: "05". -/
theorem test_code_digits : (after (.code 18#5 2#16) (onQueue [0#4, 5#4])).slot 18 = some (ascii "05") := by decide

/-- V2.5: a nibble above 9. -/
theorem test_code_not_digit : (after (.code 3#5 2#16) (onQueue [1#4, 12#4])).err = some .unspecified := by decide

/-- V7: male. -/
theorem test_gender_male : (after (.gender 24#5) (onQueue [0#4, 1#4])).slot 24 = some [0x01#8] := by decide

/-- V2.5: "10" is not "01". -/
theorem test_gender_other : (after (.gender 24#5) (onQueue [1#4, 0#4])).slot 24 = some [0x00#8] := by decide

/-! ### The port and the step -/

/-- V2.6: SSEL = 5, s5 = "P1". -/
theorem test_port_slot :
    readRegister { start with ssel := 5#5, slots := noSlots.set 5 (some (ascii "P1")) } 0x030 = some 0x80000002#32 ∧
      readRegister { start with ssel := 5#5, slots := noSlots.set 5 (some (ascii "P1")) } 0x2004 = some 0x31#32 ∧
      readRegister { start with ssel := 5#5, slots := noSlots.set 5 (some (ascii "P1")) } 0x2008 = some 0#32 := by
  decide

/-- V2.6: 0x123 written to SSEL reads back as 3; a read of CMD and a read at 0x034 are rejected. -/
theorem test_port_writes :
    (stepped { start with pending := [.write .bits32 0x02C#14 0x123#32] }).ssel = 3#5 ∧
      (stepped { start with pending := [.read .bits32 0x000#14] }).response = .rejected ∧
      (stepped { start with pending := [.read .bits32 0x034#14] }).response = .rejected := by decide

/-- R81: PushRaw in the error state. -/
theorem test_port_push :
    (stepped { start with err := some .malformedField, pending := [.write .bits32 0x00C#14 0x155#32] }).raw =
        [(0, 0x55#8)] ∧
      (stepped { start with err := some .malformedField, pending := [.write .bits32 0x00C#14 0x155#32] }).rawLen =
        1#16 := by decide

/-- The placed word is the next thing a step runs: 0x22200000 stops with EOP = 0x22 (V2.1), from reset itself. -/
theorem test_step_runs_placed_word :
    (stepped (State.reset.withFetchWord 32 0x22200000)).einfo = 0x22#32 ∧
      (stepped (State.reset.withFetchWord 32 0x10000000)).err = some .insufficientBytes ∧
      (stepped (State.reset.withFetchWord 32 0x00000000)).response = .written := by decide

theorem test_table_word : decodeTableWord 32 0x240C000D = some (.rdraw 12#5 13#16) := by decide

/-- R109: a program line as written. -/
theorem test_asm_text : asmText (.rdraw 12#5 13#16) = "RDRAW s12, 13" := by decide +kernel

/-! ### Witnesses: for each statement with hypotheses, inputs that meet them, clause by clause -/

theorem witness_EncodeInvertsDecode : decode (encode (.code 31#5 0xFFFF#16)) = .ok (.code 31#5 0xFFFF#16) := by decide

/-- Both clauses: the ends of the reserved ranges, and a 1 outside each of the masks. -/
theorem witness_ReservedWordsStop :
    start.Ready ∧ (∀ w ∈ [0x03#8, 0x0F#8, 0x13#8, 0x17#8, 0x1D#8, 0x1F#8, 0x28#8, 0x2F#8, 0x34#8, 0xFF#8],
      decode (w ++ 0#24) = .error .reservedOpcode) ∧
    opField 0x22200000#32 = (Instr.rdstr 0#5).opcode ∧
    0x22200000#32 &&& (Instr.rdstr 0#5).mask ≠ (Instr.rdstr 0#5).opcode.zeroExtend 32 <<< 24 := by decide

/-- Both sides of each range: 1 and 2, 5 and 6, 32 and 33, 768 and 769. -/
theorem witness_OperandRanges :
    start.Ready ∧ (1#16).toNat ≤ 1 ∧ ¬ (2#16).toNat ≤ 1 ∧ (5#16).toNat ≤ 5 ∧ ¬ (6#16).toNat ≤ 5 ∧
      (31#5).toNat + (1#16).toNat ≤ 32 ∧ ¬ (31#5).toNat + (2#16).toNat ≤ 32 ∧ (768#16).toNat ≤ 768 ∧
      ¬ (769#16).toNat ≤ 768 ∧ (Instr.code 0#5 769#16).wellFormed = false := by decide

theorem witness_StepRunsDecodedCommand :
    ({ start with pending := [HostAction.command 0x20000000#32] } : State).resetLine = false ∧
      ({ start with pending := [HostAction.command 0x20000000#32] } : State).busy = false ∧
      decode 0x20000000#32 = .ok .seek := by decide

theorem witness_StepWaitsForHost : start.pending = [] := by decide

/-- The error state: ready for PushRaw and for a read, not for RUN. -/
theorem witness_ErrorStateIgnoresCommands :
    ({ start with err := some .configError } : State).err ≠ none ∧
      ({ start with err := some .configError } : State).busy = false ∧
      (0x02000000#32 : Word) ≠ 0x01000000#32 ∧
      writeRegister 0x00C 7#32 { start with err := some .configError } =
        some (.next (({ start with err := some .configError } : State).pushRaw 7#8)) ∧
      (readRegister { start with err := some .configError } 0x004).isSome = true :=
  ⟨by decide, by decide, by decide, rfl, by decide⟩

theorem witness_ResetInput :
    ({ start with pending := [.assertReset] } : State).pending = .assertReset :: [] ∧
      ({ start with resetLine := true, pending := [.read .bits32 4#14] } : State).resetLine = true ∧
      ({ start with resetLine := true, pending := [.releaseReset] } : State).pending = .releaseReset :: [] := by decide

/-- A state with a filled buffer, a filled queue, a slot and a latched delimiter meets the invariants, and a step answers. -/
def busyWorld : State :=
  { onBuffer [0x41#8, 0xE0#8] with
    raw := [(0, 0x57#8)], rawLen := 1#16, cur := 2#10, nq := [(0, 1#4)], nqt := 2#11, lastDelim := 0xE0#8, ldValid := true
    slots := noSlots.set 1 (some (ascii "A")), mr := 255#1024, mrLen := 1#8
    pending := [HostAction.command 0x1A000000#32] }

/-- The same leftovers and the input of the reset state: no byte pushed. -/
def leftovers : State := { busyWorld with raw := [], rawLen := 0#16, pending := [], lcnt := 1#6 }

theorem witness_StepKeepsInvariants :
    busyWorld.Inv ∧ step busyWorld = .next (stepped busyWorld) ∧ (stepped busyWorld).dlen = 3#10 :=
  ⟨by constructor <;> decide, rfl, by decide⟩

/-- PushRaw at the last byte of RAW, beyond it, and at the saturated count. -/
theorem witness_PushRawStores :
    ({ onRaw [1#8] 719#16 with pending := [.write .bits32 0x00C#14 5#32] } : State).raw.wf = true ∧
      ((onRaw [] 719#16).pushRaw 5#8).raw = [(719, 5#8)] ∧ ((onRaw [] 720#16).pushRaw 5#8).raw = [] ∧
      ((onRaw [] 65535#16).pushRaw 5#8).rawLen = 65535#16 := by decide

/-- The first and the last word of a window. -/
theorem witness_OperandWindowWrite :
    start.resetLine = false ∧ start.busy = false ∧
      bigByte (setBigByte start.mx 0 0x80#8) 0 = 0x80#8 ∧ bigByte (setBigByte start.mx 127 0x81#8) 127 = 0x81#8 := by
  decide

/-- The ends of every rejected range, and their accepted neighbours. -/
theorem witness_RejectedAccessChangesNothing :
    (∀ off ∈ [0x000, 0x00C, 0x034, 0x3FC, 0xC00, 0xFFC, 0x1C00, 0x1FFC, 0x2C00, 0x3FFC],
      readRegister start off = none) ∧
    (∀ off ∈ [0x004, 0x030, 0x400, 0xBFC, 0x1000, 0x1BFC, 0x2000, 0x2BFC], (readRegister start off).isSome = true) ∧
    (∀ off ∈ [0x004, 0x008, 0x010, 0x028, 0x030, 0xA00, 0x2BFC], (writeRegister off 1#32 start).isNone = true) ∧
    (∀ off ∈ [0x00C, 0x02C, 0x400, 0x9FC], (writeRegister off 1#32 start).isSome = true) := by decide +kernel

theorem witness_ReadChangesNothing :
    ({ start with pending := [.read .bits8 0#14] } : State).pending = .read .bits8 0#14 :: [] := by decide

theorem witness_BusyPort :
    ({ start with busy := true } : State).busy = true ∧ ({ start with busy := true } : State).resetLine = false := by
  decide

/-- R231's table, and the two reserved codes. -/
theorem test_error_codes :
    [ErrorKind.insufficientBytes, .unknownVersion, .malformedField, .invalidText, .insufficientParts, .configError,
      .unspecified, .illegalCommand].map (fun k => ({ start with err := some k } : State).status) =
      [0x10#32, 0x20#32, 0x30#32, 0x40#32, 0x50#32, 0x60#32, 0x70#32, 0x80#32] := by decide

/-- R41's table: the offsets of the registers, each holding a value of its own. -/
theorem test_register_offsets :
    [0x008, 0x010, 0x014, 0x018, 0x01C, 0x020, 0x024, 0x028, 0x02C].map
      (readRegister { start with
        einfo := 0x80000010#32, rawLen := 720#16, dlen := 700#10, cur := 9#10, ldValid := true, lastDelim := 0xE0#8
        nqt := 5#11, nqh := 2#11, lcnt := 3#6, mrLen := 128#8, ssel := 31#5 }) =
      [some 0x80000010#32, some 720#32, some 700#32, some 9#32, some 0x1E0#32, some 0x50002#32, some 3#32, some 128#32,
        some 31#32] := by decide

/-- R41's table: the four operand windows, at byte 127, the least significant. -/
theorem test_operand_windows :
    [0x5FC, 0x7FC, 0x9FC, 0xBFC].map (readRegister { start with mx := 1#1024, mn := 2#1024, me := 3#1024, mr := 4#1024 }) =
      [some 1#32, some 2#32, some 3#32, some 4#32] := by decide +kernel

/-- R80, SelectSlot: bits above the field are ignored. -/
theorem test_select_slot : writeRegister 0x02C 0xFFFFFFE5#32 start = some (.next { start with ssel := 5#5 }) := by rfl

/-- An open port and a register with a value; an absent slot, a present one, and a byte of DBUF inside and beyond DLEN. -/
theorem witness_WindowsReadBytes :
    start.resetLine = false ∧ start.busy = false ∧ (readRegister start 0x014).isSome = true ∧
      start.slot start.ssel.toNat = none ∧
      ({ start with slots := noSlots.set 0 (some [7#8]) } : State).slot start.ssel.toNat = some [7#8] ∧
      0 < (onBuffer [9#8]).dlen.toNat ∧ ¬ 1 < (onBuffer [9#8]).dlen.toNat := by decide

theorem witness_ParametersConstant : step busyWorld = .next (stepped busyWorld) := rfl

theorem witness_ClrReturnsToReset : ({ start with err := some .unspecified } : State).busy = false := by decide

theorem witness_ChklenChecksLength :
    (onRaw [] 720#16).Ready ∧ (onRaw [] 720#16).rawLen.toNat = 720 ∧ (onRaw [] 719#16).Ready ∧
      (onRaw [] 719#16).rawLen.toNat ≠ 720 := by decide

/-- The four clauses; the last with three of four bytes matching. -/
theorem witness_VerdetDetectsVersion :
    (onRaw [] 721#16).Ready ∧ (onRaw [] 721#16).rawLen.toNat ≠ 720 ∧
      (onRaw [0x57#8, 0x4C#8, 0x44#8, 0x31#8] 720#16).raw.readRange 0 4 = tp.magicV1.toList ∧
      (onRaw [0x57#8, 0x4C#8, 0x44#8, 0x32#8] 720#16).raw.readRange 0 4 = tp.magicV2.toList ∧
      (onRaw [0x57#8, 0x4C#8, 0x44#8] 720#16).raw.readRange 0 4 ≠ tp.magicV1.toList ∧
      (onRaw [0x57#8, 0x4C#8, 0x44#8] 720#16).raw.readRange 0 4 ≠ tp.magicV2.toList := by decide

theorem witness_LdkeyLoadsKey :
    start.Ready ∧ start.ver = .none ∧ (1#16).toNat ≤ 1 ∧ ({ start with ver := .v1 } : State).Ready ∧
      ({ start with ver := .v2 } : State).Ready := by decide

theorem witness_LdblkLoadsBlock :
    (onRaw [1#8] 720#16).Ready ∧ (4#16).toNat ≤ 4 ∧ (5#16).toNat = 5 ∧ (onRaw [1#8] 720#16).rawLen.toNat = 720 ∧
      (onRaw [1#8] 3#16).rawLen.toNat ≠ 720 := by decide

theorem witness_ModexpComputesPower :
    (onOperands 0#1024 0#1024 1#1024).Ready ∧ (onOperands 0#1024 0#1024 1#1024).mn ≠ 0 ∧
      (onOperands 2#1024 3#1024 0#1024).Ready ∧ (onOperands 2#1024 3#1024 0#1024).mn = 0 := by decide

/-- The largest value of each length, and the largest register value. -/
theorem witness_NaturalByteLength :
    byteLen tp 0 = 1 ∧ byteLen tp 1 = 1 ∧ byteLen tp 255 = 1 ∧ byteLen tp 256 = 2 ∧ byteLen tp (2 ^ 1024 - 1) = 128 := by
  decide +kernel

/-- Exactly full, and one byte too many. -/
theorem witness_AppendStoresResult :
    ({ start with mr := 5#1024, mrLen := 128#8, dlen := 640#10 } : State).Ready ∧
      (640#10).toNat + (128#8).toNat ≤ 768 ∧ start.dbuf.wf = true ∧ (5#1024).toNat < 256 ^ (128#8).toNat ∧
      768 < (641#10).toNat + (128#8).toNat := by decide

/-- All clauses: the length, no version, room for the result, no room. -/
theorem witness_DecblkDecryptsBlock :
    (onRaw [] 719#16).Ready ∧ (onRaw [] 720#16).ver = .none ∧
      keyOf tp .v2 .trail = some tp.keyV2Trail ∧
      767 + byteLen tp (blockPlain (onRaw [] 720#16).raw 5 tp.keyV2Trail) ≤ 768 ∧
      768 < 768 + byteLen tp (blockPlain (onRaw [] 720#16).raw 5 tp.keyV2Trail) := by decide +kernel

theorem witness_AssembleJoinsBlocks :
    (onRaw [] 720#16).Ready ∧ (onRaw [] 720#16).rawLen.toNat = 720 ∧ (onRaw [] 719#16).rawLen.toNat ≠ 720 ∧
      (onRaw [] 720#16).ver = .none ∧ keyOf tp .v2 .large = some tp.keyV2Large ∧
      keyOf tp .v2 .trail = some tp.keyV2Trail ∧ (onRaw [] 720#16).dbuf.wf = true := by decide +kernel

/-- The marker at the last place that fits, and at DLEN - 1. -/
theorem witness_SeekFindsFirstMarker :
    (onBuffer [1#8, 0xAA#8, 2#8]).Ready ∧ 1 + 2 ≤ (onBuffer [1#8, 0xAA#8, 2#8]).dlen.toNat ∧
      (onBuffer [1#8, 0xAA#8, 2#8]).dbuf.read 1 = tp.marker ∧
      (∀ q < 1, (onBuffer [1#8, 0xAA#8, 2#8]).dbuf.read q ≠ tp.marker) ∧
      (∀ q, q + 2 ≤ (onBuffer [0#8, 0xAA#8]).dlen.toNat → (onBuffer [0#8, 0xAA#8]).dbuf.read q ≠ tp.marker) := by
  refine ⟨by decide, by decide, by decide, by decide, fun q hq => ?_⟩
  have : q = 0 := by
    have h2 : (onBuffer [0#8, 0xAA#8]).dlen.toNat = 2 := by decide
    omega
  subst this
  decide

/-- As many strings as asked for (two, and none), and an unterminated one after fewer. -/
theorem witness_RdstrsReadsList :
    (onBuffer [0x41#8, 0xE0#8, 0xE1#8, 0x42#8]).Ready ∧ (30#5).toNat + (2#16).toNat ≤ 32 ∧
      (∀ f ∈ [([0x41#8], 0xE0#8), ([], 0xE1#8)], fieldOk tp f = true) ∧
      (onBuffer [0x41#8, 0xE0#8, 0xE1#8, 0x42#8]).remaining =
        ([([0x41#8], 0xE0#8), ([], 0xE1#8)] : List Field).flatMap fieldBytes ++ [0x42#8] ∧
      (onBuffer [0x41#8]).remaining = ([] : List Field).flatMap fieldBytes ++ [0x41#8] ∧
      (∀ b ∈ [0x41#8], isDelim tp b = false) := by decide

theorem witness_RdstrReadsOne :
    (onBuffer [0xE1#8]).Ready ∧ fieldOk tp ([], 0xE1#8) = true ∧
      (onBuffer [0xE1#8]).remaining = fieldBytes ([], 0xE1#8) ++ [] ∧
      (∀ b ∈ (onBuffer [0x41#8, 0x42#8]).remaining, isDelim tp b = false) := by decide

/-- Signalled with a string, signalled at the end of the buffer, not signalled. -/
theorem witness_RdoptReadsWhenSignalled :
    ({ onBuffer [0x50#8, 0xE0#8] with ldValid := true, lastDelim := 0xE1#8 } : State).Ready ∧
      (0xE1#8 : Byte) = extraDelimByte tp ∧ fieldOk tp ([0x50#8], 0xE0#8) = true ∧
      (onBuffer [0x50#8, 0xE0#8]).remaining = fieldBytes ([0x50#8], 0xE0#8) ++ [] ∧
      (∀ b ∈ (onBuffer []).remaining, isDelim tp b = false) ∧ (onBuffer []).ldValid = false ∧
      (0xE0#8 : Byte) ≠ extraDelimByte tp := by decide

theorem witness_RdrawCopiesBytes :
    (onBuffer [1#8, 2#8]).Ready ∧ (onBuffer [1#8, 2#8]).cur.toNat + (2#16).toNat ≤ (onBuffer [1#8, 2#8]).dlen.toNat ∧
      (onBuffer [1#8, 2#8]).dlen.toNat < (onBuffer [1#8, 2#8]).cur.toNat + (3#16).toNat := by decide

/-- The end of the buffer, 99 and 100. -/
theorem witness_Rddec2RendersDigits :
    (onBuffer []).cur = (onBuffer []).dlen ∧ (onBuffer [99#8]).Ready ∧
      (onBuffer [99#8]).cur.toNat < (onBuffer [99#8]).dlen.toNat ∧ ((onBuffer [99#8]).dbuf.read 0).toNat < 100 ∧
      100 ≤ ((onBuffer [100#8]).dbuf.read 0).toNat := by decide

theorem witness_SkipAdvances :
    (onBuffer [1#8]).Ready ∧ (onBuffer [1#8]).cur.toNat + (1#16).toNat ≤ (onBuffer [1#8]).dlen.toNat ∧
      (onBuffer [1#8]).dlen.toNat < (onBuffer [1#8]).cur.toNat + (2#16).toNat := by decide

theorem witness_NqloadFillsQueue :
    (onBuffer [0x12#8, 0xBB#8, 1#8]).Ready ∧ (onBuffer [0x12#8, 0xBB#8, 1#8]).nq.wf = true ∧ tp.term ∉ [0x12#8] ∧
      (onBuffer [0x12#8, 0xBB#8, 1#8]).remaining = [0x12#8] ++ tp.term :: [1#8] ∧
      tp.term ∉ (onBuffer [0x12#8]).remaining := by decide

/-- The marker, eight digits, seven nibbles, and a marker in second place. -/
theorem witness_DategReadsGroup :
    (onQueue [10#4]).Ready ∧ (onQueue [10#4]).queue = 10#4 :: [] ∧
      (onQueue [9#4, 9#4, 9#4, 9#4, 9#4, 9#4, 9#4, 9#4]).queue = [9#4, 9#4, 9#4, 9#4, 9#4, 9#4, 9#4, 9#4] ++ [] ∧
      (∀ d ∈ [9#4, 9#4, 9#4, 9#4, 9#4, 9#4, 9#4, 9#4], d.toNat ≤ 9) ∧
      (onQueue [1#4, 2#4, 3#4, 4#4, 5#4, 6#4, 7#4]).queue.head? ≠ some 10#4 ∧
      (onQueue [1#4, 2#4, 3#4, 4#4, 5#4, 6#4, 7#4]).queue.length < 8 ∧
      (∃ d ∈ [1#4, 10#4, 3#4, 4#4, 5#4, 6#4, 7#4, 8#4], 9 < d.toNat) := by decide

/-- Two groups of two; one of two with underflow; one of two with a nibble above 9. -/
theorem witness_DatelReadsGroups :
    (onQueue [10#4, 2#4, 0#4, 2#4, 4#4, 0#4, 1#4, 3#4, 1#4]).Ready ∧ (30#5).toNat + (2#16).toNat ≤ 32 ∧
      (∀ g ∈ [none, some [2#4, 0#4, 2#4, 4#4, 0#4, 1#4, 3#4, 1#4]], groupOk g = true) ∧
      (onQueue [10#4, 2#4, 0#4, 2#4, 4#4, 0#4, 1#4, 3#4, 1#4]).queue =
        [none, some [2#4, 0#4, 2#4, 4#4, 0#4, 1#4, 3#4, 1#4]].flatMap groupNibbles ++ [] ∧
      (onQueue [10#4, 2#4]).queue = [none].flatMap groupNibbles ++ [2#4] ∧
      (onQueue [10#4, 11#4, 1#4, 1#4, 1#4, 1#4, 1#4, 1#4, 1#4]).queue =
        [none].flatMap groupNibbles ++ [11#4, 1#4, 1#4, 1#4, 1#4, 1#4, 1#4, 1#4] ∧
      (∃ d ∈ [11#4, 1#4, 1#4, 1#4, 1#4, 1#4, 1#4, 1#4].take 8, 9 < d.toNat) := by decide

theorem witness_CodeRendersDigits :
    (onQueue [0#4, 9#4]).Ready ∧ (2#16).toNat ≤ 768 ∧ (onQueue [0#4, 9#4]).queue = [0#4, 9#4] ++ [] ∧
      (∀ d ∈ [0#4, 9#4], d.toNat ≤ 9) ∧ (onQueue [0#4, 10#4]).queue = [0#4, 10#4] ++ [] ∧
      (∃ d ∈ [0#4, 10#4], 9 < d.toNat) ∧ (onQueue [0#4]).queue.length < (2#16).toNat := by decide

theorem witness_GenderMapsCode :
    (onQueue [0#4, 1#4]).Ready ∧ (onQueue [0#4, 1#4]).queue = 0#4 :: 1#4 :: [] ∧ (0#4).toNat ≤ 9 ∧ (1#4).toNat ≤ 9 ∧
      (onQueue [0#4, 10#4]).queue = 0#4 :: 10#4 :: [] ∧ 9 < (10#4).toNat ∧ (onQueue [0#4]).queue.length < 2 := by decide

/-- A short plaintext: most strings and dates absent, the permit code and one date present; 22 nibbles. -/
def samplePlain : Plaintext where
  lead := [0#8, 0#8, 0#8, 0#8, 0#8]
  skipped := 0x5A#8
  codes := [(ascii "A", 0xE0#8), ([], 0xE0#8), (ascii "EB", 0xE0#8)]
  surname := (ascii "DOE", 0xE0#8)
  initials := (ascii "J", 0xE1#8)
  permit := some (ascii "P1", 0xE0#8)
  idCountry := ([], 0xE0#8)
  licCountry := ([], 0xE0#8)
  restrictions := [([], 0xE0#8), ([], 0xE0#8), ([], 0xE1#8)]
  licNumber := ([], 0xE0#8)
  idNumber := ascii "8001015009087"
  idType := 2#8
  region := [0xA2#8, 0x01#8, 0x50#8, 0x22#8, 0x0A#8, 0xA0#8, 0x2A#8, 0x01#8, 0xAA#8, 0xA0#8, 0x10#8]
  issue := [none, some [2#4, 0#4, 1#4, 5#4, 0#4, 2#4, 2#4, 0#4], none, none]
  restr := [0#4, 2#4]
  expiry := none
  issueNo := [0#4, 1#4]
  birth := none
  issued := none
  expires := none
  gender := [0#4, 1#4]
  leftover := [0#4]
  gapA := [1#8, 2#8, 3#8]
  width := 0xFA#8
  gapB := [4#8, 5#8]
  height := 0xC8#8
  tail := [0x22#8]

/-- An input whose blocks 0 to 4 are 0 and whose block 5 is the rest of that plaintext, at the end of RAW. -/
def sampleInput : State :=
  { start with
    raw := ([0x57#8, 0x4C#8, 0x44#8, 0x32#8] : List Byte).zipIdx.map (fun c => (c.2, c.1)) ++
      (((samplePlain.bytes tp).drop 5).zipIdx (725 - (samplePlain.bytes tp).length)).map (fun c => (c.2, c.1))
    rawLen := 720#16 }

theorem sample_fits : samplePlain.Fits tp := by constructor <;> decide

theorem sample_buffer :
    plainBuffer tp sampleInput.raw tp.keyV2Large tp.keyV2Trail = samplePlain.bytes tp := by decide +kernel

theorem witness_RunDecodesPlaintext :
    sampleInput.Ready ∧ sampleInput.rawLen.toNat = 720 ∧ sampleInput.dbuf.wf = true ∧ sampleInput.nq.wf = true ∧
      versionOf tp (sampleInput.raw.readRange 0 4) = some .v2 ∧ keyOf tp .v2 .large = some tp.keyV2Large ∧
      keyOf tp .v2 .trail = some tp.keyV2Trail ∧
      plainBuffer tp sampleInput.raw tp.keyV2Large tp.keyV2Trail = samplePlain.bytes tp ∧ samplePlain.Fits tp :=
  ⟨by decide, by decide, by decide, by decide, by decide +kernel, by decide, by decide, sample_buffer, sample_fits⟩

/-- R216: the record's fields after RUN on that input. -/
theorem test_run_decodes :
    (after .run sampleInput).status = 0x00003B0A#32 ∧ (after .run sampleInput).slot 5 = some (ascii "P1") ∧
      (after .run sampleInput).slot 14 = some (ascii "2015/02/20") ∧
      (after .run sampleInput).slot 26 = some [0xC8#8] := by decide +kernel

/-- R214, R36: the id type byte of that input made 0xFF stops RDDEC2 at UPC 13, 42 bytes into the buffer. -/
theorem test_run_stops_inside :
    (after .run { sampleInput with
      raw := sampleInput.raw.write (720 - (samplePlain.bytes tp).length + 41) 0xFF#8 }).einfo = 0x802A0D25#32 := by
  decide +kernel

theorem witness_RunChecksLengthThenVersion :
    start.Ready ∧ start.rawLen.toNat ≠ 720 ∧ (onRaw [1#8] 720#16).rawLen.toNat = 720 ∧
      versionOf tp ((onRaw [1#8] 720#16).raw.readRange 0 4) = none := by decide

/-- Both clauses: the sample input, and an empty one. -/
theorem witness_RunIsSteppedMicroprogram :
    (execSeq microCommands sampleInput.clearCall).err = none ∧
      (execSeq microCommands start.clearCall).err ≠ none := by decide +kernel

theorem witness_RunHasTwoOutcomes : start.Ready ∧ exec .run start = .next (after .run start) := ⟨by decide, rfl⟩

/-- Two states with one input and different leftovers. -/
theorem witness_RunDependsOnInputOnly :
    start.Inv ∧ leftovers.Inv ∧ start.err = none ∧ leftovers.err = none ∧ start.raw = leftovers.raw ∧
      start.rawLen = leftovers.rawLen ∧ start.config = leftovers.config ∧
      exec .run start = .next (after .run start) ∧ exec .run leftovers = .next (after .run leftovers) :=
  ⟨by constructor <;> decide, by constructor <;> decide, rfl, rfl, rfl, rfl, rfl, rfl, rfl⟩

theorem witness_CommandsKeepInput : exec .seek (onBuffer [0xAA#8, 1#8]) = .next (after .seek (onBuffer [0xAA#8, 1#8])) := rfl

theorem witness_MeuFrame :
    isMeu .append = true ∧ exec .append busyWorld = .next (after .append busyWorld) ∧
      (after .append busyWorld).dlen = 3#10 := ⟨by decide, rfl, by decide⟩

theorem witness_ScannerFrame :
    isScanner (.rdstr 0#5) = true ∧ exec (.rdstr 0#5) (onBuffer [0xE0#8]) = .next (after (.rdstr 0#5) (onBuffer [0xE0#8])) ∧
      (after (.rdstr 0#5) (onBuffer [0xE0#8])).err = none := ⟨by decide, rfl, by decide⟩

theorem witness_NibbleFrame :
    isNibble (.dateg 0#5) = true ∧ exec (.dateg 0#5) (onQueue [10#4]) = .next (after (.dateg 0#5) (onQueue [10#4])) ∧
      (after (.dateg 0#5) (onQueue [10#4])).err = none := ⟨by decide, rfl, by decide⟩

/-- A slot that RDSTR s0 does not write, and a stop. -/
theorem witness_SlotWrites :
    writesSlot (.rdstr 0#5) 1 = false ∧ (after (.rdstr 0#5) (onBuffer [0xE0#8])).err = none ∧ (onBuffer []).err = none ∧
      (after (.rdstr 0#5) (onBuffer [])).err ≠ none := by decide

theorem witness_CursorNeverRewound :
    exec (.skip 1#16) (onBuffer [1#8]) = .next (after (.skip 1#16) (onBuffer [1#8])) ∧
      (after (.skip 1#16) (onBuffer [1#8])).cur = 1#10 := ⟨rfl, by decide⟩

theorem witness_RecordValidRule :
    ({ start with recValid := true } : State).Ready ∧
      exec .nop { start with recValid := true } = .next { start with recValid := true } := ⟨by decide, rfl⟩

theorem witness_ErrorLeftOnlyByClrOrReset :
    ({ start with err := some .configError, pending := [HostAction.command 0x02000000#32] } : State).err ≠ none ∧
      HostAction.command 0x02000000#32 ≠ HostAction.command 0x01000000#32 ∧
      HostAction.command 0x02000000#32 ≠ .releaseReset := by decide

/-- One set for each constraint of R11, which violates that constraint alone. -/
def illegalSets : List ParameterSet :=
  [{ tp.toParameterSet with magicV2 := tp.magicV1 }, { tp.toParameterSet with delimB := tp.delimA },
    { tp.toParameterSet with keyV1Large.n := 0#1024 }, { tp.toParameterSet with keyV1Trail.n := 0#1024 },
    { tp.toParameterSet with keyV2Large.n := 0#1024 }, { tp.toParameterSet with keyV2Trail.n := 0#1024 }]

theorem test_illegal_sets : illegalSets.all (fun p => !p.legal) = true := by decide +kernel

/-- R11: the engine is not set up with the first of them, and is with TP. -/
theorem witness_IllegalParametersRefused :
    State.configured { tp.toParameterSet with magicV2 := tp.magicV1 } = .refused .illegalParameters ∧
      State.configured tp.toParameterSet = .next start :=
  ⟨configured_illegal (by decide), configured_legal tp⟩

end Sys2Proof.Tests
end

section
/-! PROOFS. The scope of the model (00_scope.md): the idle step, and the parameter sets an engine can have. -/

namespace Sys2Proof

/-! ### The idle step -/

/-- Settles O8: `stepOnce` performs an action only where `pending` holds one (R16, R49). -/
theorem Machine.stepWaitsForHost : Obligations.StepWaitsForHost := by
  intro s hidle
  rw [Machine.step, Machine.stepOnce, hidle]

/-! ### The parameter sets -/

/-- R11 bounds a modulus from below as a number; `ParameterSet.legal` tests the word. -/
theorem KeyParams.one_le_modulus_iff (key : KeyParams) : 1 ≤ key.n.toNat ↔ key.n ≠ 0 := by
  bv_omega

/-- The constraints of R11 as the spec writes them, the moduli as numbers. -/
theorem ParameterSet.legal_iff_one_le_moduli (p : ParameterSet) :
    p.legal = true ↔ p.magicV1 ≠ p.magicV2 ∧ p.delimA ≠ p.delimB ∧
      1 ≤ p.keyV1Large.n.toNat ∧ 1 ≤ p.keyV1Trail.n.toNat ∧
      1 ≤ p.keyV2Large.n.toNat ∧ 1 ≤ p.keyV2Trail.n.toNat := by
  simp only [p.legal_iff, KeyParams.one_le_modulus_iff]

/-- EXTRA_DELIM is one of the two delimiters (R11). -/
theorem Machine.extraDelimByte_eq_delim (c : Config) :
    Machine.extraDelimByte c = c.delimA ∨ Machine.extraDelimByte c = c.delimB := by
  unfold Machine.extraDelimByte
  split
  · exact .inl rfl
  · exact .inr rfl

namespace Machine

/-- A set that violates a constraint of R11 is refused by name. -/
theorem configured_of_violation {p : ParameterSet}
    (hbad : p.magicV1 = p.magicV2 ∨ p.delimA = p.delimB ∨ p.keyV1Large.n.toNat < 1 ∨ p.keyV1Trail.n.toNat < 1 ∨
      p.keyV2Large.n.toNat < 1 ∨ p.keyV2Trail.n.toNat < 1) :
    State.configured p = .refused .illegalParameters := by
  apply configured_illegal
  intro hlegal
  obtain ⟨hmagic, hdelim, hV1Large, hV1Trail, hV2Large, hV2Trail⟩ := p.legal_iff_one_le_moduli.mp hlegal
  rcases hbad with h | h | h | h | h | h
  · exact hmagic h
  · exact hdelim h
  all_goals omega

/-- Every key of a legal set has a modulus of at least 1, and both its numbers are below 2 ^ 1024 (R11). -/
theorem config_key_bounds (c : Config) :
    ∀ key ∈ [c.keyV1Large, c.keyV1Trail, c.keyV2Large, c.keyV2Trail],
      1 ≤ key.n.toNat ∧ key.n.toNat < 2 ^ 1024 ∧ key.e.toNat < 2 ^ 1024 := by
  intro key hkey
  obtain ⟨-, -, hV1Large, hV1Trail, hV2Large, hV2Trail⟩ := c.legal_iff_one_le_moduli.mp c.isLegal
  have hmod : 1 ≤ key.n.toNat := by
    simp only [List.mem_cons, List.not_mem_nil, or_false] at hkey
    rcases hkey with rfl | rfl | rfl | rfl <;> assumption
  exact ⟨hmod, by omega, by omega⟩

/-- Settles O60: `State.configured` asks for exactly the constraints of R11, and a `Config` carries the proof of them. -/
theorem illegalParametersRefused : Obligations.IllegalParametersRefused := by
  refine ⟨fun p => ⟨configured_of_violation, ?_⟩, fun s => ?_⟩
  · intro hmagic hdelim hV1Large hV1Trail hV2Large hV2Trail
    have hlegal : p.legal = true :=
      p.legal_iff_one_le_moduli.mpr ⟨hmagic, hdelim, hV1Large, hV1Trail, hV2Large, hV2Trail⟩
    exact ⟨⟨p, hlegal⟩, rfl, configured_legal ⟨p, hlegal⟩⟩
  · obtain ⟨hmagic, hdelim, -⟩ := s.config.legal_iff.mp s.config.isLegal
    exact ⟨hmagic, hdelim, extraDelimByte_eq_delim s.config, config_key_bounds s.config⟩

end Machine

end Sys2Proof
end

section
/-! PROOFS. What a command body leaves alone: the rule of a result's end, one equation per body for the registers it
writes, and the frame every body shares. -/

namespace Sys2Proof.Machine

/-! ### A property of a result's end -/

/-- An error kind that some rule raises: codes 4 and 5 are reserved (R232). -/
abbrev ErrorKind.Used (k : ErrorKind) : Prop := k ≠ .invalidText ∧ k ≠ .insufficientParts

/-- However a result ends, `P` holds of its state; what it raises is in use. -/
def Res.Ends {α : Type} (P : State → Prop) : Res α → Prop
  | .ok _ t => P t
  | .raise k t => k.Used ∧ P t

@[simp] theorem Res.ends_ok {α : Type} {P : State → Prop} {a : α} {t : State} : (Res.ok a t).Ends P ↔ P t := Iff.rfl

@[simp] theorem Res.ends_raise {α : Type} {P : State → Prop} {k : ErrorKind} {t : State} :
    (Res.raise (α := α) k t).Ends P ↔ k.Used ∧ P t := Iff.rfl

/-- The second part begins where the first one completed. -/
theorem Res.Ends.bind {α β : Type} {P : State → Prop} {r : Res α} {f : α → State → Res β} (hr : r.Ends P)
    (hf : ∀ a t, r = .ok a t → P t → (f a t).Ends P) : (r.bind f).Ends P := by
  cases r with
  | ok a t => exact hf a t rfl hr
  | raise k t => exact hr

theorem Res.Ends.state {α : Type} {P : State → Prop} {r : Res α} (h : r.Ends P) : P r.state := by
  cases r with
  | ok a t => exact h
  | raise k t => exact h.2

theorem Res.bind_state {α β : Type} {P : State → Prop} {r : Res α} {f : α → State → Res β} (hr : P r.state)
    (hf : ∀ a t, P t → P (f a t).state) : P (r.bind f).state := by
  cases r with
  | ok a t => exact hf a t hr
  | raise k t => exact hr

/-- From `P` a body ends in `P`. -/
def Body.Keeps (P : State → Prop) (f : Body) : Prop := ∀ s, P s → (f s).Ends P

theorem Body.Keeps.andThen {P : State → Prop} {f g : Body} (hf : f.Keeps P) (hg : g.Keeps P) :
    (f.andThen g).Keeps P :=
  fun s hs => (hf s hs).bind fun _ t _ ht => hg t ht

theorem decryptBlocks_keeps {P : State → Prop} (h : ∀ k, (decryptBlock k).Keeps P) (ks : List Nat) :
    (decryptBlocks ks).Keeps P := by
  induction ks with
  | nil => exact fun s hs => hs
  | cons k ks ih => exact (h k).andThen ih

/-! ### The registers each body writes -/

theorem lengthCheck_state (s : State) : (lengthCheck s).state = s := by
  unfold lengthCheck
  split <;> rfl

theorem verdet_state (s : State) : (verdet s).state = { s with ver := (verdet s).state.ver } := by
  unfold verdet lengthCheck
  split
  · dsimp only [Res.bind_ok]
    split
    · rfl
    · split <;> rfl
  · rfl

theorem loadKey_state (cls : BlockClass) (s : State) :
    (loadKey cls s).state = { s with mn := (loadKey cls s).state.mn, me := (loadKey cls s).state.me } := by
  unfold loadKey
  split <;> rfl

theorem loadBlock_state (k : Nat) (s : State) : (loadBlock k s).state = { s with mx := (loadBlock k s).state.mx } := by
  unfold loadBlock lengthCheck
  split <;> rfl

theorem modexp_state (s : State) :
    (modexp s).state = { s with mr := (modexp s).state.mr, mrLen := (modexp s).state.mrLen } := by
  unfold modexp
  split <;> rfl

theorem append_state (s : State) :
    (append s).state = { s with dbuf := (append s).state.dbuf, dlen := (append s).state.dlen } := by
  unfold append
  split <;> rfl

/-- The four outcomes of decrypting a block (R148). -/
theorem decryptBlock_cases (k : Nat) (s : State) :
    decryptBlock k s = .raise .insufficientBytes s ∨
      decryptBlock k s = .raise .configError { s with mx := BitVec.ofNat 1024 (blockValue s.raw k) } ∨
      ∃ key, key.n ≠ 0 ∧
        (s.dlen.toNat + byteLen s.config (blockPlain s.raw k key) ≤ 768 ∧
            decryptBlock k s = .ok () (s.decryptedAppended k key) ∨
          decryptBlock k s = .raise .illegalCommand (s.decrypted k key)) := by
  by_cases hlen : s.rawLen = 720#16
  · cases hkey : keyOf s.config s.ver (classOfBlock k) with
    | none =>
      have hver : s.ver = .none := by
        cases hv : s.ver <;> cases hc : classOfBlock k <;> simp [hv, hc, keyOf] at hkey ⊢
      exact .inr (.inl (decryptBlock_no_version hlen hver))
    | some key =>
      have hn := keyOf_modulus hkey
      refine .inr (.inr ⟨key, hn, ?_⟩)
      rw [decryptBlock_key hlen hkey hn]
      split
      · next hfits => exact .inl ⟨hfits, rfl⟩
      · exact .inr rfl
  · exact .inl (decryptBlock_length hlen)

/-- `t` differs from `s` at most in the MEU's registers and the buffer. -/
def State.MeuFrame (s t : State) : Prop :=
  t = { s with mx := t.mx, mn := t.mn, me := t.me, mr := t.mr, mrLen := t.mrLen, dbuf := t.dbuf, dlen := t.dlen }

theorem decryptBlock_keeps_meuFrame (s : State) (k : Nat) : (decryptBlock k).Keeps s.MeuFrame := by
  intro t ht
  unfold State.MeuFrame at *
  rcases decryptBlock_cases k t with h | h | ⟨key, -, ⟨-, h⟩ | h⟩ <;> rw [h]
  · exact ⟨by decide, ht⟩
  · exact ⟨by decide, by rw [ht]⟩
  · rw [Res.ends_ok, ht]; rfl
  · exact ⟨by decide, by rw [ht]; rfl⟩

theorem decryptBlock_state (k : Nat) (s : State) : s.MeuFrame (decryptBlock k s).state :=
  (decryptBlock_keeps_meuFrame s k s rfl).state

theorem assemble_state (s : State) : s.clearBuffer.MeuFrame (assemble s).state :=
  (decryptBlocks_keeps (decryptBlock_keeps_meuFrame s.clearBuffer) _ s.clearBuffer rfl).state

theorem seek_state (s : State) : (seek s).state = { s with cur := (seek s).state.cur } := by
  unfold seek
  split
  · rfl
  · split <;> rfl

theorem rdstrs_state (rd count : Nat) (s : State) :
    (rdstrs rd count s).state = { s with
      cur := (rdstrs rd count s).state.cur, lastDelim := (rdstrs rd count s).state.lastDelim
      ldValid := (rdstrs rd count s).state.ldValid, slots := (rdstrs rd count s).state.slots
      lcnt := (rdstrs rd count s).state.lcnt } := by
  simp only [rdstrs, Res.state_ok]
  rw [readStrings_state, State.clearSlots_eq]

theorem rdstr_state (rd : Nat) (s : State) :
    (rdstr rd s).state = { s with
      cur := (rdstr rd s).state.cur, lastDelim := (rdstr rd s).state.lastDelim
      ldValid := (rdstr rd s).state.ldValid, slots := (rdstr rd s).state.slots } := by
  simp only [rdstr]
  split
  · rw [Res.state_raise, scanString_state]
  · rw [Res.state_ok, State.setSlot, scanString_state]

theorem rdopt_state (rd : Nat) (s : State) :
    (rdopt rd s).state = { s with
      cur := (rdopt rd s).state.cur, lastDelim := (rdopt rd s).state.lastDelim
      ldValid := (rdopt rd s).state.ldValid, slots := (rdopt rd s).state.slots } := by
  unfold rdopt
  split
  · exact rdstr_state rd s
  · rfl

theorem rdraw_state (rd n : Nat) (s : State) :
    (rdraw rd n s).state = { s with cur := (rdraw rd n s).state.cur, slots := (rdraw rd n s).state.slots } := by
  unfold rdraw
  split <;> rfl

theorem rddec2_state (rd : Nat) (s : State) :
    (rddec2 rd s).state = { s with cur := (rddec2 rd s).state.cur, slots := (rddec2 rd s).state.slots } := by
  unfold rddec2
  split
  · dsimp only
    split <;> rfl
  · rfl

theorem skip_state (n : Nat) (s : State) : (skip n s).state = { s with cur := (skip n s).state.cur } := by
  unfold skip
  split <;> rfl

theorem nqload_state (s : State) :
    (nqload s).state = { s with
      cur := (nqload s).state.cur, nq := (nqload s).state.nq
      nqh := (nqload s).state.nqh, nqt := (nqload s).state.nqt } := by
  unfold nqload
  dsimp only
  split
  · rw [Res.state_ok]
    split <;> rfl
  · rfl

/-- `t` differs from `s` at most in NQH and the slots. -/
def State.NibbleFrame (s t : State) : Prop := t = { s with nqh := t.nqh, slots := t.slots }

theorem State.NibbleFrame.setSlot {s t : State} (h : s.NibbleFrame t) (i : Nat) (v : Slot) :
    s.NibbleFrame (t.setSlot i v) := by
  unfold State.NibbleFrame at *
  rw [State.setSlot, h]

theorem popMany_nibbleFrame (n : Nat) (s : State) : s.NibbleFrame (popMany n s).state := by
  unfold State.NibbleFrame
  rw [popMany_state]

theorem dateGroup_nibbleFrame (s : State) : s.NibbleFrame (dateGroup s).state := by
  unfold State.NibbleFrame
  rw [dateGroup_state]

theorem dateg_state (rd : Nat) (s : State) : s.NibbleFrame (dateg rd s).state :=
  Res.bind_state (dateGroup_nibbleFrame s) fun g _ ht => ht.setSlot rd g

theorem readDates_nibbleFrame (rd n k : Nat) (s : State) : s.NibbleFrame (readDates rd n k s).state :=
  readDates_state rd n k s

theorem State.clearSlots_nibbleFrame (s : State) (rd n : Nat) : s.NibbleFrame (s.clearSlots rd n) := by
  unfold State.NibbleFrame
  rw [State.clearSlots_eq]

/-- DATEL writes LCNT too (R195). -/
def State.DatelFrame (s t : State) : Prop := t = { s with nqh := t.nqh, slots := t.slots, lcnt := t.lcnt }

theorem datel_state (rd count : Nat) (s : State) : s.DatelFrame (datel rd count s).state := by
  unfold datel
  have hread : s.DatelFrame (readDates rd count 0 (s.clearSlots rd count)).state := by
    unfold State.DatelFrame
    rw [readDates_nibbleFrame rd count 0 _, State.clearSlots_nibbleFrame]
  refine Res.bind_state hread fun k t ht => ?_
  unfold State.DatelFrame at *
  rw [Res.state_ok, ht]

theorem code_state (rd width : Nat) (s : State) : s.NibbleFrame (code rd width s).state := by
  refine Res.bind_state (popMany_nibbleFrame width s) fun vs t ht => ?_
  split
  · exact ht
  · exact ht.setSlot rd _

theorem gender_state (rd : Nat) (s : State) : s.NibbleFrame (gender rd s).state := by
  refine Res.bind_state (popMany_nibbleFrame 2 s) fun vs t ht => ?_
  split
  · exact ht
  · exact ht.setSlot rd _

/-! ### The frame every body shares -/

/-- `t` differs from `s` at most in the registers a body may write: not in the input (R23, R24), the sequencer's registers
(R34 to R38), SSEL, the parameters and the host's side. -/
def State.BodyFrame (s t : State) : Prop :=
  t = { s with
    ver := t.ver, mx := t.mx, mn := t.mn, me := t.me, mr := t.mr, mrLen := t.mrLen, dbuf := t.dbuf, dlen := t.dlen
    cur := t.cur, lastDelim := t.lastDelim, ldValid := t.ldValid, nq := t.nq, nqh := t.nqh, nqt := t.nqt
    lcnt := t.lcnt, slots := t.slots }

theorem bodyOf_frame (i : Instr) (s : State) : s.BodyFrame (bodyOf i s).state := by
  cases i <;> dsimp only [bodyOf, State.BodyFrame]
  case nop | clr | run => rfl
  case chklen => rw [chklen, lengthCheck_state]
  case verdet => rw [verdet_state]
  case ldkey => rw [loadKey_state]
  case ldblk => rw [loadBlock_state]
  case modexp => rw [modexp_state]
  case append => rw [append_state]
  case decblk => rw [decryptBlock_state]
  case assemble => rw [assemble_state]; rfl
  case seek => rw [seek_state]
  case rdstrs => rw [rdstrs_state]
  case rdstr => rw [rdstr_state]
  case rdopt => rw [rdopt_state]
  case rdraw => rw [rdraw_state]
  case rddec2 => rw [rddec2_state]
  case skip => rw [skip_state]
  case nqload => rw [nqload_state]
  case dateg => rw [dateg_state]
  case datel => rw [datel_state]
  case code => rw [code_state]
  case gender => rw [gender_state]

end Sys2Proof.Machine
end

section
/-! PROOFS. Frames of the whole command set (R22 to R24, R30, R37, R39, R48): what acceptance, RUN's loop and a stop leave
alone. -/

namespace Sys2Proof.Machine

/-! ### The input and the host's side -/

/-- What no command but CLR writes: the parameters, the host's side, RAW, RAWLEN and SSEL (R23, R24, R39, R48). -/
def State.outer (s : State) : Config × Bool × List HostAction × Response × Memory 8 × BitVec 16 × BitVec 5 :=
  (s.config, s.resetLine, s.pending, s.response, s.raw, s.rawLen, s.ssel)

/-- What no body writes of the sequencer's registers (R34 to R38). -/
def State.control (s : State) : BitVec 5 × Option ErrorKind × BitVec 32 × Bool × Bool :=
  (s.upc, s.err, s.einfo, s.recValid, s.busy)

theorem State.outer_eq_iff {s t : State} :
    t.outer = s.outer ↔ t.config = s.config ∧ t.resetLine = s.resetLine ∧ t.pending = s.pending ∧
      t.response = s.response ∧ t.raw = s.raw ∧ t.rawLen = s.rawLen ∧ t.ssel = s.ssel := by
  simp only [State.outer, Prod.mk.injEq]

theorem State.control_eq_iff {s t : State} :
    t.control = s.control ↔ t.upc = s.upc ∧ t.err = s.err ∧ t.einfo = s.einfo ∧ t.recValid = s.recValid ∧
      t.busy = s.busy := by
  simp only [State.control, Prod.mk.injEq]

theorem bodyOf_outer (i : Instr) (s : State) : (bodyOf i s).state.outer = s.outer := by
  rw [(bodyOf_frame i s : _ = _)]
  rfl

theorem bodyOf_control (i : Instr) (s : State) : (bodyOf i s).state.control = s.control := by
  rw [(bodyOf_frame i s : _ = _)]
  rfl

/-! ### RUN's loop (R214) -/

/-- Every micro-command is the command it names, with legal operands (R215). -/
theorem microprogram_body : ∀ m ∈ microprogram, m.body = bodyOf m.instr ∧ m.instr.wellFormed = true := by
  simp only [microprogram, List.cons_append, List.nil_append, List.forall_mem_cons]
  iterate 27 refine ⟨⟨rfl, rfl⟩, ?_⟩
  simp

/-- The two ways the loop ends, for a property `P` that may count the micro-commands still to come. -/
theorem runMicros_cases {P : Nat → State → Prop} {ms : List Micro} {s : State}
    (hbody : ∀ m ∈ ms, ∀ n t, P n t → P n (m.body t).state) (hnext : ∀ n t, P (n + 1) t → P n t.nextMicro)
    (hs : P ms.length s) :
    (∃ t, P 0 t ∧ runMicros ms s = t.finishRun) ∨
      ∃ m ∈ ms, ∃ n u k t, P n u ∧ m.body u = .raise k t ∧ runMicros ms s = t.stop k m.instr.opcode true := by
  induction ms generalizing s with
  | nil => exact .inl ⟨s, hs, rfl⟩
  | cons m ms ih =>
    have hm := hbody m List.mem_cons_self _ s hs
    cases hb : m.body s with
    | raise k t => exact .inr ⟨m, List.mem_cons_self, _, s, k, t, hs, hb, by simp only [runMicros, hb]⟩
    | ok a t =>
      rw [hb] at hm
      have hrun : runMicros (m :: ms) s = runMicros ms t.nextMicro := by simp only [runMicros, hb]
      rw [hrun]
      rcases ih (fun m' hm' => hbody m' (List.mem_cons_of_mem _ hm')) (hnext _ _ hm) with h | ⟨m', hm', h⟩
      · exact .inl h
      · exact .inr ⟨m', List.mem_cons_of_mem _ hm', h⟩

/-- What RUN's loop leaves alone, however many micro-commands are to come. -/
def State.LoopFrame (s : State) (_ : Nat) (t : State) : Prop := t.outer = s.outer ∧ t.err = s.err

theorem State.LoopFrame.body {s t : State} {n : Nat} (h : s.LoopFrame n t) (i : Instr) :
    s.LoopFrame n (bodyOf i t).state := by
  obtain ⟨hout, herr⟩ := h
  exact ⟨(bodyOf_outer i t).trans hout, (State.control_eq_iff.mp (bodyOf_control i t)).2.1.trans herr⟩

/-- RUN ends with a record or stops; either way the input stands. -/
theorem runAll_cases (s : State) :
    (∃ t : State, t.outer = s.outer ∧ t.err = s.err ∧ runAll s = t.finishRun) ∨
      ∃ (k : ErrorKind) (eop : Byte) (t : State), t.outer = s.outer ∧ runAll s = t.stop k eop true := by
  have hbody : ∀ m ∈ microprogram, ∀ n t, s.LoopFrame n t → s.LoopFrame n (m.body t).state :=
    fun m hm n t ht => (microprogram_body m hm).1 ▸ ht.body m.instr
  rcases runMicros_cases (s := s.clearCall) hbody (fun n t h => h) ⟨rfl, rfl⟩ with
    ⟨t, ⟨hout, herr⟩, hrun⟩ | ⟨m, hm, n, u, k, t, hu, hraise, hrun⟩
  · exact .inl ⟨t, hout, herr, hrun⟩
  · have ht := hbody m hm n u hu
    rw [hraise] at ht
    exact .inr ⟨k, m.instr.opcode, t, ht.1, hrun⟩

/-! ### Acceptance -/

/-- A command other than CLR and RUN is its body's end. -/
theorem runOf_eq_finish {i : Instr} (hclr : i ≠ .clr) (hrun : i ≠ .run) (s : State) :
    runOf i s = (bodyOf i s).finish i.opcode false := by
  cases i with
  | clr | run => contradiction
  | _ => rfl

/-- The three outcomes of a command: nothing happens, the illegal-command stop, or it runs (R103). -/
theorem exec_cases {i : Instr} {s t : State} (h : exec i s = .next t) :
    t = s ∨ t = s.stop .illegalCommand i.opcode false ∨
      i.wellFormed = true ∧ s.busy = false ∧ (s.err = none ∨ i = .clr) ∧
        t = (runOf i ((s.dropRecord i).setBusy true)).setBusy false :=
  accept_cases ((exec_eq_accept i s).symm.trans h)

theorem Res.finish_outer (r : Res Unit) (eop : Byte) (b : Bool) : (r.finish eop b).outer = r.state.outer := by
  cases r <;> rfl

/-- What a command other than CLR runs leaves the input and the host's side. -/
theorem runOf_outer {i : Instr} (hclr : i ≠ .clr) (s : State) : (runOf i s).outer = s.outer := by
  by_cases hrun : i = .run
  · subst hrun
    rcases runAll_cases s with ⟨t, hout, -, h⟩ | ⟨k, eop, t, hout, h⟩ <;> exact (congrArg State.outer h).trans hout
  · rw [runOf_eq_finish hclr hrun, Res.finish_outer, bodyOf_outer]

theorem exec_outer {i : Instr} {s t : State} (hclr : i ≠ .clr) (h : exec i s = .next t) : t.outer = s.outer := by
  rcases exec_cases h with rfl | rfl | ⟨-, -, -, rfl⟩
  · rfl
  · rfl
  · exact runOf_outer hclr ((s.dropRecord i).setBusy true)

/-- Settles O52: a body writes none of them (`bodyOf_frame`), nor do RUN's loop and the stop; CLR keeps the parameters and
the host's side. -/
theorem commandsKeepInput : Obligations.CommandsKeepInput := by
  intro i s t h
  by_cases hclr : i = .clr
  · subst hclr
    rcases exec_cases h with rfl | rfl | ⟨-, -, -, rfl⟩ <;> exact ⟨rfl, rfl, rfl, rfl, (absurd rfl ·)⟩
  · obtain ⟨hconfig, hline, hpending, hresponse, hinput⟩ := State.outer_eq_iff.mp (exec_outer hclr h)
    exact ⟨hconfig, hline, hpending, hresponse, fun _ => hinput⟩

/-! ### The record flag (R37) -/

/-- Settles O58: only `finishRun` sets RECVALID; acceptance clears it for every command but NOP. -/
theorem recordValidRule : Obligations.RecordValidRule := by
  intro i s t hready h
  rw [exec_eq_accept] at h
  by_cases hw : i.wellFormed = true
  · rw [accept_ready hready hw] at h
    cases h
    refine ⟨fun hnop => by subst hnop; rfl, fun hnop => ?_⟩
    rw [State.dropRecord_eq_accepted s hnop]
    by_cases hclr : i = .clr
    · subst hclr
      simp [runOf, State.reset]
    by_cases hrun : i = .run
    · subst hrun
      rcases runAll_cases (s.accepted.setBusy true) with ⟨u, -, herr, hu⟩ | ⟨k, eop, u, -, hu⟩
      · simp [runOf, hu, herr, hready.2]
      · simp [runOf, hu]
    · have hctl := State.control_eq_iff.mp (bodyOf_control i (s.accepted.setBusy true))
      rw [runOf_eq_finish hclr hrun]
      cases hb : bodyOf i (s.accepted.setBusy true) with
      | ok a u =>
        cases a
        obtain ⟨-, -, -, hrec, -⟩ := hb ▸ hctl
        simpa [hrun] using hrec
      | raise k u => simp [hrun]
  · rw [accept_illegal hready (by simpa using hw)] at h
    cases h
    exact ⟨fun hnop => absurd (by subst hnop; rfl) hw, fun _ => by simp⟩

end Sys2Proof.Machine
end

section
/-! PROOFS. What the bodies do to the slots (R22) and to the cursor (R30). -/

namespace Sys2Proof.Machine

/-! ### Slots (R22, R236) -/

theorem State.slot_of_slots_eq {s t : State} (h : t.slots = s.slots) (j : Nat) : t.slot j = s.slot j := by
  rw [State.slot, State.slot, h]

theorem State.slot_setSlot_ne (s : State) {i j : Nat} (v : Slot) (h : j ≠ i) : (s.setSlot i v).slot j = s.slot j := by
  rw [State.slot_setSlot, if_neg fun hj => h hj.1]

theorem scanString_slots (s : State) : (scanString s).state.slots = s.slots := by
  rw [scanString_state]

/-- The reads of RDSTRS fill slots from the first free one on. -/
theorem readStrings_slot (rd n k : Nat) (s : State) {j : Nat} (h : j < rd + k ∨ rd + k + n ≤ j) :
    (readStrings rd n k s).2.slot j = s.slot j := by
  have hscan := State.slot_of_slots_eq (scanString_slots s) j
  induction n generalizing k s with
  | zero => rfl
  | succ n ih =>
    have hset : ((scanString s).state.setSlot (rd + k) (some (scanString s).acc)).slot j = s.slot j :=
      (State.slot_setSlot_ne _ _ (by omega)).trans hscan
    have hrec : ∀ k' t, k ≤ k' → k' ≤ k + 1 → t.slot j = s.slot j → (readStrings rd n k' t).2.slot j = s.slot j :=
      fun k' t hk hk' ht => (ih k' t (by omega) (State.slot_of_slots_eq (scanString_slots t) j)).trans ht
    rw [readStrings]
    by_cases hacc : (scanString s).acc = [] <;> by_cases hend : (scanString s).ended = true <;>
      simp only [hacc, hend, if_true, if_false, Bool.false_eq_true]
    · exact hscan
    · exact hrec k _ (by omega) (by omega) hscan
    · exact hset
    · exact hrec (k + 1) _ (by omega) (by omega) hset

/-- The groups of DATEL fill slots from the first free one on. -/
theorem readDates_slot (rd n k : Nat) (s : State) {j : Nat} (h : j < rd + k ∨ rd + k + n ≤ j) :
    (readDates rd n k s).state.slot j = s.slot j := by
  induction n generalizing k s with
  | zero => rfl
  | succ n ih =>
    have hgroup : (dateGroup s).state.slot j = s.slot j := State.slot_of_slots_eq (by rw [dateGroup_state]) j
    refine Res.bind_state (P := fun t => t.slot j = s.slot j) hgroup fun g t ht => ?_
    cases g with
    | none => exact (ih k t (by omega)).trans ht
    | some d => exact (ih (k + 1) _ (by omega)).trans ((State.slot_setSlot_ne _ _ (by omega)).trans ht)

theorem State.slot_clearSlots_outside (s : State) {rd n j : Nat} (h : j < rd ∨ rd + n ≤ j) :
    (s.clearSlots rd n).slot j = s.slot j := by
  rw [State.slot_clearSlots, if_neg (by omega)]

theorem rdstr_slot (rd : Nat) (s : State) {j : Nat} (h : j ≠ rd) : (rdstr rd s).state.slot j = s.slot j := by
  have hscan := State.slot_of_slots_eq (scanString_slots s) j
  simp only [rdstr]
  split
  · exact hscan
  · exact (State.slot_setSlot_ne _ _ h).trans hscan

/-- A body leaves every slot its command does not name, even where it raises. -/
theorem bodyOf_slot (i : Instr) (s : State) {j : Nat} (h : writesSlot i j = false) :
    (bodyOf i s).state.slot j = s.slot j := by
  cases i <;> dsimp only [bodyOf] <;> simp only [writesSlot, beq_eq_false_iff_ne] at h
  case nop | clr | run => rfl
  case chklen => rw [chklen, lengthCheck_state]
  case verdet => rw [verdet_state]; rfl
  case ldkey => rw [loadKey_state]; rfl
  case ldblk => rw [loadBlock_state]; rfl
  case modexp => rw [modexp_state]; rfl
  case append => rw [append_state]; rfl
  case decblk => rw [decryptBlock_state]; rfl
  case assemble => rw [assemble_state]; rfl
  case seek => rw [seek_state]; rfl
  case skip => rw [skip_state]; rfl
  case nqload => rw [nqload_state]; rfl
  case rdstrs rd count =>
    have hj : j < rd.toNat ∨ rd.toNat + count.toNat ≤ j := by simp at h; omega
    exact (readStrings_slot _ _ 0 _ hj).trans (s.slot_clearSlots_outside hj)
  case rdstr rd => exact rdstr_slot _ s h
  case rdopt rd =>
    unfold rdopt
    split
    · exact rdstr_slot _ s h
    · exact s.slot_setSlot_ne _ h
  case rdraw rd n =>
    unfold rdraw
    split
    · rfl
    · exact s.slot_setSlot_ne _ h
  case rddec2 rd =>
    unfold rddec2
    split
    · dsimp only
      split
      · rfl
      · exact (s.advance 1).slot_setSlot_ne _ h
    · rfl
  case dateg rd =>
    refine Res.bind_state (P := fun t => t.slot j = s.slot j) ?_ fun g t ht => (t.slot_setSlot_ne g h).trans ht
    exact State.slot_of_slots_eq (by rw [dateGroup_state]) j
  case datel rd count =>
    have hj : j < rd.toNat ∨ rd.toNat + count.toNat ≤ j := by simp at h; omega
    refine Res.bind_state (P := fun t => t.slot j = s.slot j) ?_ fun k t ht => ht
    exact (readDates_slot _ _ 0 _ hj).trans (s.slot_clearSlots_outside hj)
  case code rd width =>
    refine Res.bind_state (P := fun t => t.slot j = s.slot j)
      (State.slot_of_slots_eq (by rw [popMany_state]) j) fun vs t ht => ?_
    split
    · exact ht
    · exact (t.slot_setSlot_ne _ h).trans ht
  case gender rd =>
    refine Res.bind_state (P := fun t => t.slot j = s.slot j)
      (State.slot_of_slots_eq (by rw [popMany_state]) j) fun vs t ht => ?_
    split
    · exact ht
    · exact (t.slot_setSlot_ne _ h).trans ht

theorem State.slot_of_noSlots {s : State} (h : s.slots = noSlots) (j : Nat) : s.slot j = none := by
  simp only [State.slot, h, noSlots, Vector.toList_replicate, List.getD_eq_getElem?_getD, List.getElem?_replicate]
  split <;> rfl

/-- A command that runs either stops or keeps ERR and the slots it does not name. -/
theorem runOf_slot {i : Instr} (hclr : i ≠ .clr) (s : State) :
    (∃ k eop b t, runOf i s = State.stop t k eop b) ∨
      (runOf i s).err = s.err ∧ ∀ j, writesSlot i j = false → (runOf i s).slot j = s.slot j := by
  by_cases hrun : i = .run
  · subst hrun
    rcases runAll_cases s with ⟨t, -, herr, h⟩ | ⟨k, eop, t, -, h⟩
    · exact .inr ⟨(congrArg State.err h).trans herr, by simp [writesSlot]⟩
    · exact .inl ⟨k, eop, true, t, h⟩
  · have hctl := (State.control_eq_iff.mp (bodyOf_control i s)).2.1
    have hslot := fun j => bodyOf_slot i s (j := j)
    rw [runOf_eq_finish hclr hrun]
    cases hb : bodyOf i s with
    | ok a t => rw [hb] at hctl hslot; exact .inr ⟨hctl, hslot⟩
    | raise k t => exact .inl ⟨k, _, _, t, rfl⟩

/-- Settles O56: a body leaves the slots it does not name (`bodyOf_slot`), and the stop makes all 32 absent. -/
theorem slotWrites : Obligations.SlotWrites := by
  intro i s t h
  rcases exec_cases h with rfl | rfl | ⟨-, -, -, rfl⟩
  · exact ⟨fun _ _ _ => rfl, fun hs ht => absurd hs ht⟩
  · exact ⟨fun j ht => by simp at ht, fun _ _ j => State.slot_of_noSlots rfl j⟩
  · by_cases hclr : i = .clr
    · subst hclr
      exact ⟨by simp [writesSlot], fun _ ht => absurd rfl ht⟩
    rcases runOf_slot hclr ((s.dropRecord i).setBusy true) with ⟨k, eop, b, u, hu⟩ | ⟨herr, hslot⟩
    · rw [hu]
      exact ⟨fun j ht => by simp at ht, fun _ _ j => State.slot_of_noSlots rfl j⟩
    · exact ⟨fun j _ hj => hslot j hj, fun hs ht => absurd (herr.trans hs) ht⟩

/-! ### The cursor (R30, R160) -/

/-- Inside the buffer the cursor does not wrap. -/
theorem State.advance_cur_toNat {s : State} {n : Nat} (h : n ≤ s.dlen.toNat - s.cur.toNat) :
    (s.advance n).cur.toNat = s.cur.toNat + n := by
  have hd := s.dlen.isLt
  have hc := s.cur.isLt
  rw [State.advance_cur, BitVec.toNat_ofNat, Nat.mod_eq_of_lt (by omega)]

/-- The bytes before TERM, and TERM where it was found, are bytes of the list. -/
theorem splitAtTerm_length (t : Byte) (bs : List Byte) :
    (splitAtTerm t bs).1.length + (splitAtTerm t bs).2.toNat ≤ bs.length := by
  induction bs with
  | nil => simp [splitAtTerm]
  | cons b bs ih =>
    rw [splitAtTerm]
    split
    · simp
    · simp only [List.length_cons]
      omega

theorem scanString_cur_le (s : State) : s.cur.toNat ≤ (scanString s).state.cur.toNat := by
  have hlen := s.length_remaining
  rcases scanString_cases s with ⟨-, h⟩ | ⟨acc, d, rest, -, hrem, h⟩ <;> rw [h]
  · rw [State.advance_cur_toNat (by omega)]
    omega
  · rw [hrem, List.length_append, List.length_cons] at hlen
    rw [State.latch_cur, State.advance_cur_toNat (by omega)]
    omega

theorem readStrings_cur_le (rd n k : Nat) (s : State) : s.cur.toNat ≤ (readStrings rd n k s).2.cur.toNat := by
  induction n generalizing k s with
  | zero => exact le_rfl
  | succ n ih =>
    have hscan := scanString_cur_le s
    rw [readStrings]
    by_cases hacc : (scanString s).acc = [] <;> by_cases hend : (scanString s).ended = true <;>
      simp only [hacc, hend, if_true, if_false, Bool.false_eq_true]
    · exact hscan
    · exact hscan.trans (ih k _)
    · exact hscan
    · exact hscan.trans (ih (k + 1) ((scanString s).state.setSlot (rd + k) _))

theorem rdstr_cur_le (rd : Nat) (s : State) : s.cur.toNat ≤ (rdstr rd s).state.cur.toNat := by
  simp only [rdstr]
  split <;> exact scanString_cur_le s

theorem nqload_cur_le (s : State) : s.cur.toNat ≤ (nqload s).state.cur.toNat := by
  have hlen := s.length_remaining
  have hsplit := splitAtTerm_length s.config.term s.remaining
  have hadv := State.advance_cur_toNat (s := s.loadQueue (splitAtTerm s.config.term s.remaining).1)
    (n := (splitAtTerm s.config.term s.remaining).1.length) (by simp; omega)
  simp only [State.loadQueue_cur] at hadv
  unfold nqload
  dsimp only
  split
  · next hfound =>
    rw [Res.state_ok]
    split
    · rw [hfound, Bool.toNat_true] at hsplit
      rw [State.advance_cur_toNat (by rw [hadv]; simp; omega), hadv]
      omega
    · omega
  · rw [Res.state_raise]
    omega

/-- A body other than SEEK's and ASSEMBLE's never moves the cursor back. -/
theorem bodyOf_cur_le {i : Instr} (s : State) (hseek : i ≠ .seek) (hassemble : i ≠ .assemble) :
    s.cur.toNat ≤ (bodyOf i s).state.cur.toNat := by
  cases i <;> dsimp only [bodyOf]
  case nop | clr | run => exact le_rfl
  case chklen => rw [chklen, lengthCheck_state]
  case verdet => rw [verdet_state]
  case ldkey => rw [loadKey_state]
  case ldblk => rw [loadBlock_state]
  case modexp => rw [modexp_state]
  case append => rw [append_state]
  case decblk => rw [decryptBlock_state]
  case assemble | seek => contradiction
  case dateg => rw [dateg_state]
  case datel => rw [datel_state]
  case code => rw [code_state]
  case gender => rw [gender_state]
  case rdstrs rd count =>
    have hclear : (s.clearSlots rd.toNat count.toNat).cur = s.cur := by rw [State.clearSlots_eq]
    exact hclear ▸ readStrings_cur_le rd.toNat count.toNat 0 (s.clearSlots rd.toNat count.toNat)
  case rdstr rd => exact rdstr_cur_le _ s
  case rdopt rd =>
    unfold rdopt
    split
    · exact rdstr_cur_le _ s
    · exact le_rfl
  case rdraw rd n =>
    unfold rdraw
    split
    · exact le_rfl
    · exact le_of_le_of_eq (Nat.le_add_right _ _) (State.advance_cur_toNat (s := s) (by omega)).symm
  case rddec2 rd =>
    unfold rddec2
    split
    · have hadv := State.advance_cur_toNat (s := s) (n := 1) (by omega)
      dsimp only
      split <;> simp only [Res.state_raise, Res.state_ok, State.setSlot_cur] <;> omega
    · exact le_rfl
  case skip n =>
    unfold skip
    split
    · exact le_rfl
    · exact le_of_le_of_eq (Nat.le_add_right _ _) (State.advance_cur_toNat (by omega)).symm
  case nqload => exact nqload_cur_le s

theorem Res.finish_cur (r : Res Unit) (eop : Byte) (b : Bool) : (r.finish eop b).cur = r.state.cur := by
  cases r <;> rfl

/-- Settles O57: the body's cursor is the command's, on completion and on a stop. -/
theorem cursorNeverRewound : Obligations.CursorNeverRewound := by
  intro i s t hseek hassemble hclr hrun h
  rcases exec_cases h with rfl | rfl | ⟨-, -, -, rfl⟩
  · exact le_rfl
  · exact le_rfl
  · rw [runOf_eq_finish hclr hrun, State.setBusy_cur, Res.finish_cur]
    exact bodyOf_cur_le ((s.dropRecord i).setBusy true) hseek hassemble

end Sys2Proof.Machine
end

section
/-! PROOFS. Frame of the version, key and modular-exponentiation commands (R25, R27 to R29, R77, R146, R149). -/

namespace Sys2Proof.Machine

/-- The buffer grew at its end: DLEN did not fall, and only bytes between the old DLEN and the new one were written. -/
def State.Appends (s t : State) : Prop :=
  s.dlen.toNat ≤ t.dlen.toNat ∧ ∀ a, a < s.dlen.toNat ∨ t.dlen.toNat ≤ a → t.dbuf.read a = s.dbuf.read a

theorem State.Appends.refl (s : State) : s.Appends s := ⟨le_rfl, fun _ _ => rfl⟩

theorem State.Appends.trans {s t u : State} (h1 : s.Appends t) (h2 : t.Appends u) : s.Appends u := by
  obtain ⟨hlen1, hread1⟩ := h1
  obtain ⟨hlen2, hread2⟩ := h2
  exact ⟨hlen1.trans hlen2, fun a ha => (hread2 a (by omega)).trans (hread1 a (by omega))⟩

/-- Bytes stored at DLEN, and DLEN moved past them. -/
theorem State.appends_of_write {s t : State} {bs : List Byte} (hfits : s.dlen.toNat + bs.length ≤ 768)
    (hdbuf : t.dbuf = s.dbuf.writeRange s.dlen.toNat bs) (hdlen : t.dlen = BitVec.ofNat 10 (s.dlen.toNat + bs.length)) :
    s.Appends t := by
  have hlen : t.dlen.toNat = s.dlen.toNat + bs.length := by
    rw [hdlen, BitVec.toNat_ofNat, Nat.mod_eq_of_lt (by omega)]
  refine ⟨by omega, fun a ha => ?_⟩
  rw [hdbuf, Memory.read_writeRange_ne (by omega)]

theorem append_appends (s : State) : s.Appends (append s).state := by
  unfold append
  split
  · exact .refl s
  · exact State.appends_of_write (bs := beBytes s.mr.toNat s.mrLen.toNat) (by simp; omega) rfl (by simp)

theorem decryptBlock_keeps_appends (s : State) (k : Nat) : (decryptBlock k).Keeps s.Appends := by
  intro t ht
  rcases decryptBlock_cases k t with h | h | ⟨key, -, ⟨hfits, h⟩ | h⟩ <;> rw [h]
  · exact ⟨by decide, ht⟩
  · exact ⟨by decide, ht⟩
  · exact ht.trans (State.appends_of_write (bs := naturalBytes t.config (blockPlain t.raw k key)) (by simpa using hfits)
      rfl (by simp [State.decryptedAppended]))
  · exact ⟨by decide, ht⟩

theorem decryptBlock_appends (k : Nat) (s : State) : s.Appends (decryptBlock k s).state :=
  (decryptBlock_keeps_appends s k s (.refl s)).state

/-- ASSEMBLE begins a new buffer and appends to it. -/
theorem assemble_appends (s : State) : s.clearBuffer.Appends (assemble s).state :=
  (decryptBlocks_keeps (decryptBlock_keeps_appends s.clearBuffer) _ s.clearBuffer (.refl _)).state

/-- Whatever a command other than CLR and RUN does, its end writes only ERR, EINFO, the slots, RECVALID and BUSY over the
state before it or over its body's. -/
theorem exec_body_cases {i : Instr} {s t : State} (hclr : i ≠ .clr) (hrun : i ≠ .run) (h : exec i s = .next t) :
    ∃ r, (r = s ∨ r = (bodyOf i ((s.dropRecord i).setBusy true)).state) ∧ ∃ e w v c b,
      t = { r with err := e, einfo := w, slots := v, recValid := c, busy := b } := by
  rcases exec_cases h with rfl | rfl | ⟨-, -, -, rfl⟩
  · exact ⟨t, .inl rfl, _, _, _, _, _, rfl⟩
  · exact ⟨s, .inl rfl, _, _, _, _, _, rfl⟩
  · refine ⟨_, .inr rfl, ?_⟩
    rw [runOf_eq_finish hclr hrun]
    cases bodyOf i ((s.dropRecord i).setBusy true) <;> exact ⟨_, _, _, _, _, rfl⟩

/-- Settles O53: each body's own frame equation, and `State.Appends` for the commands that write DBUF. -/
theorem meuFrame : Obligations.MeuFrame := by
  intro i s t hmeu h
  have hclr : i ≠ .clr := by rintro rfl; cases hmeu
  have hrun : i ≠ .run := by rintro rfl; cases hmeu
  obtain ⟨r, rfl | rfl, e, w, v, c, b, rfl⟩ := exec_body_cases hclr hrun h
  · simp
  · clear h
    cases i <;> dsimp only [bodyOf]
    case nop | clr | run => cases hmeu
    case seek | rdstrs | rdstr | rdopt | rdraw | rddec2 | skip | nqload => cases hmeu
    case dateg | datel | code | gender => cases hmeu
    case chklen => rw [chklen, lengthCheck_state]; simp
    case verdet => rw [verdet_state]; simp
    case ldkey => rw [loadKey_state]; simp
    case ldblk => rw [loadBlock_state]; simp
    case modexp => rw [modexp_state]; simp
    case append =>
      obtain ⟨hlen, hread⟩ := append_appends ((s.dropRecord .append).setBusy true)
      rw [append_state]
      simpa using ⟨hlen, hread⟩
    case decblk k =>
      obtain ⟨hlen, hread⟩ := decryptBlock_appends k.toNat ((s.dropRecord (.decblk k)).setBusy true)
      rw [decryptBlock_state]
      simpa using ⟨hlen, hread⟩
    case assemble =>
      obtain ⟨-, hread⟩ := assemble_appends ((s.dropRecord .assemble).setBusy true)
      rw [assemble_state]
      simpa using fun a ha => hread a (.inr ha)

end Sys2Proof.Machine
end

section
/-! PROOFS. The invariants of the registers a body writes (R43, R50), and that every body keeps them. -/

namespace Sys2Proof.Machine

/-- The part of `State.Inv` that speaks of the registers the bodies write. -/
structure State.DataInv (s : State) : Prop where
  rawWf    : s.raw.wf = true ∧ s.raw.below 720 = true
  dbufWf   : s.dbuf.wf = true ∧ s.dbuf.below 768 = true
  nqWf     : s.nq.wf = true ∧ s.nq.below 1536 = true
  cursor   : s.cur.toNat ≤ s.dlen.toNat
  dlenMax  : s.dlen.toNat ≤ 768
  queue    : s.nqh.toNat ≤ s.nqt.toNat
  nqtMax   : s.nqt.toNat ≤ 1536
  mrLenMax : s.mrLen.toNat ≤ 128
  mrFits   : s.mr.toNat < 256 ^ s.mrLen.toNat
  lcntMax  : s.lcnt.toNat ≤ 32
  slotMax  : ∀ v ∈ s.slots.toList, slotLen v ≤ 768
  latch    : if s.ldValid = true then isDelim s.config s.lastDelim = true else s.lastDelim = 0#8

theorem State.Inv.data {s : State} (h : s.Inv) : s.DataInv := { h with }

namespace State.DataInv

variable {s : State}

theorem setSlot (h : s.DataInv) (i : Nat) {v : Slot} (hv : slotLen v ≤ 768) : (s.setSlot i v).DataInv where
  __ := h
  slotMax u hu := by
    rw [State.setSlot_slots, Vector.toList_setIfInBounds] at hu
    rcases List.mem_or_eq_of_mem_set hu with hu | rfl
    · exact h.slotMax u hu
    · exact hv

theorem clearSlots (h : s.DataInv) (rd n : Nat) : (s.clearSlots rd n).DataInv := by
  induction n generalizing s rd with
  | zero => exact h
  | succ n ih => exact ih (h.setSlot rd (Nat.zero_le _)) (rd + 1)

theorem advance (h : s.DataInv) {n : Nat} (hn : n ≤ s.dlen.toNat - s.cur.toNat) : (s.advance n).DataInv where
  __ := h
  cursor := by
    have hcur := h.cursor
    rw [State.advance_cur_toNat hn, State.advance_dlen]
    omega

theorem latched (h : s.DataInv) {b : Byte} (hb : isDelim s.config b = true) : (s.latch b).DataInv where
  __ := h
  latch := hb

theorem setLcnt (h : s.DataInv) {k : Nat} (hk : k ≤ 32) : ({ s with lcnt := BitVec.ofNat 6 k } : State).DataInv where
  __ := h
  lcntMax := by
    rw [BitVec.toNat_ofNat, Nat.mod_eq_of_lt (by omega)]
    exact hk

theorem clearBuffer (h : s.DataInv) : s.clearBuffer.DataInv where
  __ := h
  cursor := le_rfl
  dlenMax := Nat.zero_le _
  queue := le_rfl
  nqtMax := Nat.zero_le _
  latch := rfl

theorem loadQueue (h : s.DataInv) {bs : List Byte} (hbs : bs.length ≤ 768) : (s.loadQueue bs).DataInv where
  __ := h
  nqWf := ⟨Memory.wf_writeRange h.nqWf.1 _ _, Memory.below_writeRange h.nqWf.2 (by simp; omega)⟩
  queue := Nat.zero_le _
  nqtMax := by
    rw [State.loadQueue_nqt, BitVec.toNat_ofNat, Nat.mod_eq_of_lt (by omega)]
    omega

end State.DataInv

/-! ### The version, key and modular-exponentiation commands -/

theorem lengthCheck_keeps : Body.Keeps State.DataInv lengthCheck := by
  intro s h
  unfold lengthCheck
  split
  · exact h
  · exact ⟨by decide, h⟩

theorem verdet_keeps : Body.Keeps State.DataInv verdet := by
  intro s h
  refine (lengthCheck_keeps s h).bind fun _ t _ ht => ?_
  dsimp only
  split
  · exact { ht with }
  · split
    · exact { ht with }
    · exact ⟨by decide, ht⟩

theorem loadKey_keeps (cls : BlockClass) : Body.Keeps State.DataInv (loadKey cls) := by
  intro s h
  unfold loadKey
  split
  · exact ⟨by decide, h⟩
  · exact { h with }

theorem loadBlock_keeps (k : Nat) : Body.Keeps State.DataInv (loadBlock k) :=
  fun s h => (lengthCheck_keeps s h).bind fun _ _ _ ht => { ht with }

set_option exponentiation.threshold 2000 in
/-- An integer of 1024 bits fits MR, and its byte length MRLEN (R144). -/
theorem State.DataInv.setResult {s : State} (h : s.DataInv) {r : Nat} (hr : r < 2 ^ 1024) :
    ({ s with mr := BitVec.ofNat 1024 r, mrLen := BitVec.ofNat 8 (byteLen s.config r) } : State).DataInv := by
  have hlen : byteLen s.config r ≤ 128 := byteLen_le_128 hr
  have hmod : (BitVec.ofNat 8 (byteLen s.config r)).toNat = byteLen s.config r := by
    rw [BitVec.toNat_ofNat, Nat.mod_eq_of_lt (by omega)]
  refine { h with mrLenMax := hmod.trans_le hlen, mrFits := ?_ }
  rw [hmod, BitVec.toNat_ofNat, Nat.mod_eq_of_lt hr]
  exact lt_pow_byteLen _ _

set_option exponentiation.threshold 2000 in
/-- The power is below the modulus (R142). -/
theorem modexp_keeps : Body.Keeps State.DataInv modexp := by
  intro s h
  unfold modexp
  split
  · exact ⟨by decide, h⟩
  · next hmn =>
    have hpos : 0 < s.mn.toNat := by bv_omega
    refine h.setResult ?_
    rw [modexpValue_eq _ _ (BitVec.isLt _)]
    exact (Nat.mod_lt _ hpos).trans (BitVec.isLt _)

theorem append_keeps : Body.Keeps State.DataInv append := by
  intro s h
  unfold append
  split
  · exact ⟨by decide, h⟩
  · next hfits =>
    have hdlen : (BitVec.ofNat 10 (s.dlen.toNat + s.mrLen.toNat)).toNat = s.dlen.toNat + s.mrLen.toNat := by
      rw [BitVec.toNat_ofNat, Nat.mod_eq_of_lt (by omega)]
    have hcur := h.cursor
    refine { h with dbufWf := ⟨Memory.wf_writeRange h.dbufWf.1 _ _, ?_⟩, cursor := ?_, dlenMax := ?_ }
    · exact Memory.below_writeRange h.dbufWf.2 (by simp; omega)
    all_goals dsimp only; omega

theorem decryptBlock_keeps (k : Nat) : Body.Keeps State.DataInv (decryptBlock k) :=
  (loadBlock_keeps k).andThen ((loadKey_keeps _).andThen (modexp_keeps.andThen append_keeps))

theorem assemble_keeps : Body.Keeps State.DataInv assemble :=
  fun s h => decryptBlocks_keeps decryptBlock_keeps _ s.clearBuffer h.clearBuffer

/-! ### The field scanner -/

theorem seek_keeps : Body.Keeps State.DataInv seek := by
  intro s h
  unfold seek
  split
  · exact ⟨by decide, h⟩
  · split
    · exact ⟨by decide, h⟩
    · have hdlen := h.dlenMax
      refine { h with cursor := ?_ }
      dsimp only
      rw [BitVec.toNat_ofNat, Nat.mod_eq_of_lt (by omega)]
      omega

theorem scanString_dataInv {s : State} (h : s.DataInv) :
    (scanString s).state.DataInv ∧ (scanString s).acc.length ≤ 768 := by
  have hlen := s.length_remaining
  have hmax := h.dlenMax
  rcases scanString_cases s with ⟨-, hscan⟩ | ⟨acc, d, rest, hd, hrem, hscan⟩ <;> rw [hscan]
  · exact ⟨h.advance (by omega), by dsimp only; omega⟩
  · rw [hrem, List.length_append, List.length_cons] at hlen
    exact ⟨(h.advance (by omega)).latched hd, by dsimp only; omega⟩

/-- RDSTRS keeps at most one string per attempt. -/
theorem readStrings_dataInv {s : State} (h : s.DataInv) (rd n k : Nat) :
    (readStrings rd n k s).2.DataInv ∧ (readStrings rd n k s).1 ≤ k + n := by
  induction n generalizing k s with
  | zero => exact ⟨h, le_rfl⟩
  | succ n ih =>
    obtain ⟨hscan, hacc⟩ := scanString_dataInv h
    have hset := hscan.setSlot (rd + k) (v := some (scanString s).acc) hacc
    have hsame := ih hscan k
    have hnext := ih hset (k + 1)
    rw [readStrings]
    by_cases he : (scanString s).acc = [] <;> by_cases hend : (scanString s).ended = true <;>
      simp only [he, hend, if_true, if_false, Bool.false_eq_true] at hset hnext ⊢
    · exact ⟨hscan, by omega⟩
    · exact ⟨hsame.1, by omega⟩
    · exact ⟨hset, by omega⟩
    · exact ⟨hnext.1, by omega⟩

theorem rdstrs_keeps (rd : Nat) {count : Nat} (hcount : count ≤ 32) : Body.Keeps State.DataInv (rdstrs rd count) := by
  intro s h
  obtain ⟨hread, hk⟩ := readStrings_dataInv (h.clearSlots rd count) rd count 0
  exact hread.setLcnt (by omega)

theorem rdstr_keeps (rd : Nat) : Body.Keeps State.DataInv (rdstr rd) := by
  intro s h
  obtain ⟨hscan, hacc⟩ := scanString_dataInv h
  simp only [rdstr]
  split
  · exact ⟨by decide, hscan⟩
  · exact hscan.setSlot rd hacc

theorem rdopt_keeps (rd : Nat) : Body.Keeps State.DataInv (rdopt rd) := by
  intro s h
  unfold rdopt
  split
  · exact rdstr_keeps rd s h
  · exact h.setSlot rd (Nat.zero_le _)

theorem rdraw_keeps (rd n : Nat) : Body.Keeps State.DataInv (rdraw rd n) := by
  intro s h
  have hmax := h.dlenMax
  unfold rdraw
  split
  · exact ⟨by decide, h⟩
  · exact (h.setSlot rd (by simp only [slotLen, Memory.length_readRange]; omega)).advance (by simp; omega)

theorem rddec2_keeps (rd : Nat) : Body.Keeps State.DataInv (rddec2 rd) := by
  intro s h
  unfold rddec2
  split
  · have hadv := h.advance (n := 1) (by omega)
    dsimp only
    split
    · exact ⟨by decide, hadv⟩
    · exact hadv.setSlot rd (by simp [slotLen, twoDigits])
  · exact ⟨by decide, h⟩

theorem skip_keeps (n : Nat) : Body.Keeps State.DataInv (skip n) := by
  intro s h
  unfold skip
  split
  · exact ⟨by decide, h⟩
  · exact h.advance (by omega)

theorem nqload_keeps : Body.Keeps State.DataInv nqload := by
  intro s h
  have hlen := s.length_remaining
  have hmax := h.dlenMax
  have hsplit := splitAtTerm_length s.config.term s.remaining
  have hload := h.loadQueue (bs := (splitAtTerm s.config.term s.remaining).1) (by omega)
  have hadv := hload.advance (n := (splitAtTerm s.config.term s.remaining).1.length) (by simp; omega)
  have hcur := State.advance_cur_toNat (s := s.loadQueue (splitAtTerm s.config.term s.remaining).1)
    (n := (splitAtTerm s.config.term s.remaining).1.length) (by simp; omega)
  unfold nqload
  dsimp only
  split
  · next hfound =>
    rw [Res.ends_ok]
    split
    · rw [hfound, Bool.toNat_true] at hsplit
      refine hadv.advance ?_
      rw [hcur]
      simp
      omega
    · exact hadv
  · exact ⟨by decide, hadv⟩

/-! ### The nibble decoder -/

theorem Res.ok_of_bind_ok {α β : Type} {r : Res α} {f : α → State → Res β} {b : β} {u : State}
    (h : r.bind f = .ok b u) : ∃ a t, r = .ok a t ∧ f a t = .ok b u := by
  cases r with
  | ok a t => exact ⟨a, t, rfl, h⟩
  | raise k t => cases h

theorem pop_ends {s : State} (h : s.DataInv) : (pop s).Ends State.DataInv := by
  have hmax := h.nqtMax
  unfold pop
  split
  · refine { h with queue := ?_ }
    dsimp only
    rw [BitVec.toNat_ofNat, Nat.mod_eq_of_lt (by omega)]
    omega
  · exact ⟨by decide, h⟩

theorem popMany_ends {s : State} (h : s.DataInv) (n : Nat) : (popMany n s).Ends State.DataInv := by
  induction n generalizing s with
  | zero => exact h
  | succ n ih => exact (pop_ends h).bind fun v t _ ht => (ih ht).bind fun vs u _ hu => hu

theorem length_of_popMany_ok {n : Nat} {s t : State} {vs : List Nibble} (h : popMany n s = .ok vs t) :
    vs.length = n := by
  induction n generalizing s t vs with
  | zero => cases h; rfl
  | succ n ih =>
    obtain ⟨v, u, -, h⟩ := Res.ok_of_bind_ok h
    obtain ⟨ws, u', hrest, h⟩ := Res.ok_of_bind_ok h
    cases h
    rw [List.length_cons, ih hrest]

theorem length_of_digitChars {ds : List Nibble} {cs : List Byte} (h : digitChars ds = some cs) :
    cs.length = ds.length := by
  induction ds generalizing cs with
  | nil => cases h; rfl
  | cons d ds ih =>
    rw [digitChars] at h
    split at h
    · cases h
    · split at h
      · cases h
      · next hds => cases h; rw [List.length_cons, List.length_cons, ih hds]

theorem length_dateText_le (cs : List Byte) : (dateText cs).length ≤ 10 := by
  simp [dateText]
  omega

theorem dateGroup_ends {s : State} (h : s.DataInv) : (dateGroup s).Ends State.DataInv := by
  refine (pop_ends h).bind fun d t _ ht => ?_
  split
  · exact ht
  · refine (popMany_ends ht 7).bind fun ds u _ hu => ?_
    split
    · exact ⟨by decide, hu⟩
    · exact hu

theorem slotLen_of_dateGroup {s t : State} {g : Slot} (h : dateGroup s = .ok g t) : slotLen g ≤ 10 := by
  obtain ⟨d, u, -, h⟩ := Res.ok_of_bind_ok h
  split at h
  · cases h; exact Nat.zero_le _
  · obtain ⟨ds, u', -, h⟩ := Res.ok_of_bind_ok h
    split at h
    · cases h
    · cases h; exact length_dateText_le _

theorem dateg_keeps (rd : Nat) : Body.Keeps State.DataInv (dateg rd) :=
  fun _ h => (dateGroup_ends h).bind fun _ _ hg ht => ht.setSlot rd ((slotLen_of_dateGroup hg).trans (by decide))

theorem readDates_ends {s : State} (h : s.DataInv) (rd n k : Nat) : (readDates rd n k s).Ends State.DataInv := by
  induction n generalizing k s with
  | zero => exact h
  | succ n ih =>
    refine (dateGroup_ends h).bind fun g t hg ht => ?_
    cases g with
    | none => exact ih ht k
    | some d => exact ih (ht.setSlot (rd + k) ((slotLen_of_dateGroup hg).trans (by decide))) (k + 1)

/-- DATEL keeps at most one date per group. -/
theorem readDates_count {rd n k m : Nat} {s t : State} (h : readDates rd n k s = .ok m t) : m ≤ k + n := by
  induction n generalizing k s with
  | zero => cases h; exact le_rfl
  | succ n ih =>
    obtain ⟨g, u, -, h⟩ := Res.ok_of_bind_ok h
    cases g with
    | none => exact (ih h).trans (by omega)
    | some d => exact (ih h).trans (by omega)

theorem datel_keeps (rd : Nat) {count : Nat} (hcount : count ≤ 32) : Body.Keeps State.DataInv (datel rd count) :=
  fun _ h => (readDates_ends (h.clearSlots rd count) rd count 0).bind fun k _ hk ht =>
    ht.setLcnt ((readDates_count hk).trans (by omega))

theorem code_keeps (rd : Nat) {width : Nat} (hwidth : width ≤ 768) : Body.Keeps State.DataInv (code rd width) := by
  refine fun s h => (popMany_ends h width).bind fun vs t hvs ht => ?_
  split
  · exact ⟨by decide, ht⟩
  · next cs hcs =>
    refine ht.setSlot rd ?_
    rw [slotLen, length_of_digitChars hcs, length_of_popMany_ok hvs]
    exact hwidth

theorem gender_keeps (rd : Nat) : Body.Keeps State.DataInv (gender rd) := by
  refine fun s h => (popMany_ends h 2).bind fun vs t _ ht => ?_
  split
  · exact ⟨by decide, ht⟩
  · exact ht.setSlot rd (by simp [slotLen])

/-! ### Every body -/

/-- With legal operands (R107) every body keeps the invariants of the registers it writes, and raises a kind in use. -/
theorem bodyOf_keeps {i : Instr} (hw : i.wellFormed = true) : Body.Keeps State.DataInv (bodyOf i) := by
  cases i with
  | nop | clr | run => exact fun s h => h
  | chklen => exact lengthCheck_keeps
  | verdet => exact verdet_keeps
  | ldkey cls => exact loadKey_keeps _
  | ldblk k => exact loadBlock_keeps _
  | modexp => exact modexp_keeps
  | append => exact append_keeps
  | decblk k => exact decryptBlock_keeps _
  | assemble => exact assemble_keeps
  | seek => exact seek_keeps
  | rdstrs rd count => exact rdstrs_keeps _ (by simp [Instr.wellFormed] at hw; omega)
  | rdstr rd => exact rdstr_keeps _
  | rdopt rd => exact rdopt_keeps _
  | rdraw rd n => exact rdraw_keeps _ _
  | rddec2 rd => exact rddec2_keeps _
  | skip n => exact skip_keeps _
  | nqload => exact nqload_keeps
  | dateg rd => exact dateg_keeps _
  | datel rd count => exact datel_keeps _ (by simp [Instr.wellFormed] at hw; omega)
  | code rd width => exact code_keeps _ (by simpa [Instr.wellFormed] using hw)
  | gender rd => exact gender_keeps _

end Sys2Proof.Machine
end

section
/-! PROOFS. The invariants of R43 and R50 over the reset state, every command and every host action; what a step can do, and
who leaves the error state (R242). -/

namespace Sys2Proof.Machine

/-! ### Building the invariants -/

/-- The word the stop packs is 0 in EINFO's unused bits (R36). -/
theorem packEinfo_zero_bits (eop : Byte) (upc : BitVec 5) (cur : BitVec 10) (b : Bool) :
    (packEinfo eop upc cur b).extractLsb' 13 3 = 0#3 ∧ (packEinfo eop upc cur b).extractLsb' 26 5 = 0#5 := by
  constructor <;> apply BitVec.eq_of_getLsbD_eq <;> intro k hk <;>
    simp only [packEinfo, BitVec.getLsbD_extractLsb', BitVec.getLsbD_append] <;> (interval_cases k <;> simp)

theorem slotLen_of_mem_noSlots : ∀ v ∈ noSlots.toList, slotLen v ≤ 768 := by
  simp [noSlots, slotLen]

/-- MR and MRLEN cleared. -/
theorem zero_fits_no_bytes : (0#1024).toNat < 256 ^ (0#8).toNat := by
  simp only [BitVec.toNat_zero, pow_zero, zero_lt_one]

/-- A stop of a kind in use keeps the invariants (R236). -/
theorem State.DataInv.inv_stop {s : State} (h : s.DataInv) {k : ErrorKind} (hk : k.Used) (hupc : s.upc.toNat ≤ 27)
    (eop : Byte) (b : Bool) : (s.stop k eop b).Inv where
  __ := h
  legal := s.config.isLegal
  upcMax := hupc
  slotMax := slotLen_of_mem_noSlots
  errRaised := ⟨fun he => hk.1 (Option.some.inj he), fun he => hk.2 (Option.some.inj he)⟩
  errSlots _ := rfl
  record := nofun
  einfoZero := packEinfo_zero_bits _ _ _ _
  einfoIdle := nofun
  idle := rfl

/-- A command's end without an error keeps the invariants. -/
theorem State.DataInv.inv_idle {s : State} (h : s.DataInv) (hupc : s.upc.toNat ≤ 27) (herr : s.err = none)
    (heinfo : s.einfo = 0#32) (hrecord : s.recValid = true → s.upc = 27#5) : (s.setBusy false).Inv where
  __ := h
  legal := s.config.isLegal
  upcMax := hupc
  errRaised := by simp [herr]
  errSlots he := absurd herr he
  record hr := ⟨herr, hrecord hr⟩
  einfoZero := by simp [heinfo]
  einfoIdle _ := heinfo
  idle := rfl

/-- CLR gives the reset values, whose invariants are those of empty memories and zeros (R49, R212). -/
theorem clearAll_inv (s : State) : s.clearAll.Inv where
  legal := s.config.isLegal
  rawWf := ⟨rfl, rfl⟩
  dbufWf := ⟨rfl, rfl⟩
  nqWf := ⟨rfl, rfl⟩
  cursor := le_rfl
  dlenMax := Nat.zero_le _
  queue := le_rfl
  nqtMax := Nat.zero_le _
  mrLenMax := Nat.zero_le _
  mrFits := zero_fits_no_bytes
  lcntMax := Nat.zero_le _
  upcMax := Nat.zero_le _
  slotMax := slotLen_of_mem_noSlots
  latch := rfl
  errRaised := ⟨nofun, nofun⟩
  errSlots := absurd rfl
  record := nofun
  einfoZero := by simp [State.reset]
  einfoIdle _ := rfl
  idle := rfl

/-- Settles O13: the reset state is its own CLR. -/
theorem resetMeetsInvariants : Obligations.ResetMeetsInvariants := clearAll_inv State.reset

/-- Settles O11: `State.reset` lists the values of R49; an empty DBUF and 32 absent slots read as such. -/
theorem resetValues : Obligations.ResetValues := by
  refine ⟨rfl, rfl, rfl, rfl, rfl, rfl, rfl, rfl, rfl, rfl, rfl, rfl, rfl, rfl, ?_, rfl, rfl, rfl, rfl, rfl, rfl, ?_⟩
  · exact State.slot_of_noSlots rfl
  · intro i
    rw [State.dbufByte]
    exact if_neg (Nat.not_lt_zero i)

/-! ### Commands keep the invariants -/

theorem State.DataInv.clearCall {s : State} (h : s.DataInv) : s.clearCall.DataInv where
  __ := h
  cursor := le_rfl
  dlenMax := Nat.zero_le _
  queue := le_rfl
  nqtMax := Nat.zero_le _
  mrLenMax := Nat.zero_le _
  mrFits := zero_fits_no_bytes
  lcntMax := Nat.zero_le _
  slotMax := slotLen_of_mem_noSlots
  latch := rfl

/-- What holds while a command runs: the registers' invariants, no error, and UPC with `n` micro-commands to come within 27. -/
structure State.Running (n : Nat) (s : State) : Prop where
  data  : s.DataInv
  err   : s.err = none
  einfo : s.einfo = 0#32
  norec : s.recValid = false
  upc   : s.upc.toNat + n ≤ 27

/-- What a body leaves while its command runs. -/
theorem State.Running.body {n : Nat} {s : State} (h : s.Running n) {i : Instr} (hw : i.wellFormed = true) :
    (bodyOf i s).state.Running n := by
  obtain ⟨hupc, herr, heinfo, hrec, -⟩ := State.control_eq_iff.mp (bodyOf_control i s)
  exact ⟨(bodyOf_keeps hw s h.data).state, herr.trans h.err, heinfo.trans h.einfo, hrec.trans h.norec,
    hupc ▸ h.upc⟩

/-- A raise inside a command is a stop that keeps the invariants. -/
theorem State.Running.raise {n : Nat} {s t : State} (h : s.Running n) {i : Instr} (hw : i.wellFormed = true)
    {k : ErrorKind} (hraise : bodyOf i s = .raise k t) (eop : Byte) (b : Bool) : (t.stop k eop b).Inv := by
  have hbody := h.body hw
  have hends := bodyOf_keeps hw s h.data
  rw [hraise] at hbody hends
  exact hbody.data.inv_stop hends.1 ((Nat.le_add_right _ _).trans hbody.upc) eop b

theorem runAll_inv {n : Nat} {s : State} (h : s.Running n) : ((runAll s).setBusy false).Inv := by
  have hbody : ∀ m ∈ microprogram, ∀ n t, State.Running n t → State.Running n (m.body t).state := by
    intro m hm n t ht
    obtain ⟨hmicro, hw⟩ := microprogram_body m hm
    exact hmicro ▸ ht.body hw
  have hnext : ∀ n t, State.Running (n + 1) t → State.Running n t.nextMicro := by
    intro n t ht
    have hupc := ht.upc
    refine ⟨{ ht.data with }, ht.err, ht.einfo, ht.norec, ?_⟩
    rw [State.nextMicro_upc, BitVec.toNat_add, show (1#5).toNat = 1 from rfl, Nat.mod_eq_of_lt (by omega)]
    omega
  have hstart : State.Running microprogram.length s.clearCall :=
    ⟨h.data.clearCall, h.err, h.einfo, rfl, le_rfl⟩
  rcases runMicros_cases hbody hnext hstart with ⟨t, ht, hrun⟩ | ⟨m, hm, n, u, k, t, hu, hraise, hrun⟩ <;>
    rw [runAll, hrun]
  · exact State.DataInv.inv_idle { ht.data with } le_rfl ht.err ht.einfo fun _ => rfl
  · obtain ⟨hmicro, hw⟩ := microprogram_body m hm
    rw [hmicro] at hraise
    exact hu.raise hw hraise m.instr.opcode true

/-- A command other than CLR keeps the invariants as it ends. -/
theorem State.Running.runOf_inv {s : State} (h : s.Running 0) {i : Instr} (hw : i.wellFormed = true) (hclr : i ≠ .clr) :
    ((runOf i s).setBusy false).Inv := by
  by_cases hrun : i = .run
  · subst hrun
    exact runAll_inv h
  have hbody := h.body hw
  rw [runOf_eq_finish hclr hrun]
  cases hb : bodyOf i s with
  | ok a t =>
    rw [hb, Res.state_ok] at hbody
    exact hbody.data.inv_idle hbody.upc hbody.err hbody.einfo fun hr => absurd hr (by simp [hbody.norec])
  | raise k t => exact h.raise hw hb i.opcode false

/-- Every command keeps the invariants. -/
theorem exec_inv {i : Instr} {s t : State} (hs : s.Inv) (h : exec i s = .next t) : t.Inv := by
  rcases exec_cases h with rfl | rfl | ⟨hw, -, herr, rfl⟩
  · exact hs
  · exact hs.data.inv_stop (by decide) hs.upcMax _ _
  by_cases hclr : i = .clr
  · subst hclr
    exact clearAll_inv ((s.dropRecord .clr).setBusy true)
  by_cases hnop : i = .nop
  · subst hnop
    exact { hs with record := by simpa [runOf, State.dropRecord] using hs.record, idle := rfl }
  have herr := herr.resolve_right hclr
  have hrunning : State.Running 0 ((s.dropRecord i).setBusy true) := by
    rw [State.dropRecord_eq_accepted s hnop]
    exact ⟨{ hs.data with }, herr, hs.einfoIdle herr, rfl, hs.upcMax⟩
  exact hrunning.runOf_inv hw hclr

/-! ### What a step can do -/

/-- A word written to CMD: its row's command, nothing, or the stop of a word without a row (R103). -/
theorem writeCommand_cases {w : Word} {s t : State} (h : writeCommand w s = .next t) :
    (∃ i, decode w = .ok i ∧ exec i s = .next t) ∨ t = s ∨
      s.err = none ∧ t = s.stop .illegalCommand (opField w) false := by
  unfold writeCommand at h
  split at h
  · next i hi => exact .inl ⟨i, hi, h⟩
  · unfold acceptNoRow at h
    split at h
    · cases h; exact .inr (.inl rfl)
    · split at h
      · cases h; exact .inr (.inl rfl)
      · next herr => cases h; exact .inr (.inr ⟨by simpa using herr, rfl⟩)

/-- What an accepted write does: CMD, RAWPUSH, SSEL or a byte of MX, MN or ME (R41, R80). -/
theorem writeRegister_cases {off : Nat} {d : Word} {s t : State} (h : writeRegister off d s = some (.next t)) :
    off = 0 ∧ writeCommand d s = .next t ∨ t = s.pushRaw (d.extractLsb' 0 8) ∨
      ∃ sel x n e, t = { s with ssel := sel, mx := x, mn := n, me := e } := by
  unfold writeRegister at h
  split at h
  · next hoff => exact .inl ⟨hoff, Option.some.inj h⟩
  split at h
  · cases h; exact .inr (.inl rfl)
  iterate 4
    split at h
    · cases h; exact .inr (.inr ⟨_, _, _, _, rfl⟩)
  cases h

/-- What a host action can do: an answer alone, an accepted write, or a change of the reset input. -/
theorem hostAction_cases {a : HostAction} {s t : State} (h : hostAction a s = .next t) :
    (∃ r, t = s.answer r) ∨
      (∃ off d u, a = .write .bits32 off d ∧ writeRegister off.toNat d s = some (.next u) ∧ t = u.answer .written) ∨
      a = .assertReset ∧ t = { s with resetLine := true, response := .none } ∨
      a = .releaseReset ∧ t = s.leaveReset := by
  cases a with
  | write wd off d =>
    simp only [hostAction, hostWrite] at h
    split at h
    · next hopen =>
      split at h
      · cases h; exact .inl ⟨_, rfl⟩
      · next u hu => cases h; exact .inr (.inl ⟨off, d, u, by rw [hopen.1], hu, rfl⟩)
      · cases h
      · cases h
    · cases h; exact .inl ⟨_, rfl⟩
  | read wd off =>
    simp only [hostAction, hostRead] at h
    split at h
    · split at h <;> cases h <;> exact .inl ⟨_, rfl⟩
    · cases h; exact .inl ⟨_, rfl⟩
  | assertReset => cases h; exact .inr (.inr (.inl ⟨rfl, rfl⟩))
  | releaseReset => cases h; exact .inr (.inr (.inr ⟨rfl, rfl⟩))

/-- A step waits, or performs the oldest host action (R16). -/
theorem step_cases {s t : State} (h : step s = .next t) :
    s.pending = [] ∧ t = s ∨ ∃ a rest, s.pending = a :: rest ∧ hostAction a { s with pending := rest } = .next t := by
  unfold step stepOnce at h
  split at h
  · next hp => cases h; exact .inl ⟨hp, rfl⟩
  · next a rest hp => exact .inr ⟨a, rest, hp, h⟩

/-! ### Every step keeps the invariants -/

theorem pushRaw_inv {s : State} (h : s.Inv) (b : Byte) : (s.pushRaw b).Inv where
  __ := h
  rawWf := by
    rw [State.pushRaw]
    dsimp only
    split
    · next hlen => exact ⟨Memory.wf_write h.rawWf.1 _ b, Memory.below_write h.rawWf.2 b hlen⟩
    · exact h.rawWf

theorem leaveReset_inv {s : State} (h : s.Inv) : s.leaveReset.Inv := by
  unfold State.leaveReset
  split
  · exact { clearAll_inv s with }
  · exact h

theorem writeRegister_inv {off : Nat} {d : Word} {s t : State} (hs : s.Inv)
    (h : writeRegister off d s = some (.next t)) : t.Inv := by
  rcases writeRegister_cases h with ⟨-, hcmd⟩ | rfl | ⟨sel, x, n, e, rfl⟩
  · rcases writeCommand_cases hcmd with ⟨i, -, hexec⟩ | rfl | ⟨-, rfl⟩
    · exact exec_inv hs hexec
    · exact hs
    · exact hs.data.inv_stop (by decide) hs.upcMax _ _
  · exact pushRaw_inv hs _
  · exact { hs with }

/-- Settles O14: each host action keeps `State.Inv`; a command does by its body (`bodyOf_keeps`), RUN by its loop. -/
theorem stepKeepsInvariants : Obligations.StepKeepsInvariants := by
  intro s t hs h
  rcases step_cases h with ⟨-, rfl⟩ | ⟨a, rest, -, hact⟩
  · exact hs
  have hrest : ({ s with pending := rest } : State).Inv := { hs with }
  rcases hostAction_cases hact with ⟨r, rfl⟩ | ⟨off, d, u, -, hu, rfl⟩ | ⟨-, rfl⟩ | ⟨-, rfl⟩
  · exact { hrest with }
  · exact { writeRegister_inv hrest hu with }
  · exact { hs with }
  · exact leaveReset_inv hrest

/-! ### The parameters (R48) -/

theorem writeRegister_config {off : Nat} {d : Word} {s t : State} (h : writeRegister off d s = some (.next t)) :
    t.config = s.config := by
  rcases writeRegister_cases h with ⟨-, hcmd⟩ | rfl | ⟨sel, x, n, e, rfl⟩
  · rcases writeCommand_cases hcmd with ⟨i, -, hexec⟩ | rfl | ⟨-, rfl⟩
    · exact (commandsKeepInput i s t hexec).1
    · rfl
    · rfl
  · rfl
  · rfl

/-- Settles O22: no command writes them (O52), and neither does the port or the reset input. -/
theorem parametersConstant : Obligations.ParametersConstant := by
  intro s t h
  rcases step_cases h with ⟨-, rfl⟩ | ⟨a, rest, -, hact⟩
  · rfl
  rcases hostAction_cases hact with ⟨r, rfl⟩ | ⟨off, d, u, -, hu, rfl⟩ | ⟨-, rfl⟩ | ⟨-, rfl⟩
  · rfl
  · have hconfig := writeRegister_config hu
    exact hconfig
  · rfl
  · unfold State.leaveReset
    split <;> rfl

/-! ### Leaving the error state (R242) -/

theorem ite_eq_ok {c : Prop} [Decidable c] {i j : Instr} {e : DecodeError} :
    (if c then .ok i else .error e : Except DecodeError Instr) = .ok j ↔ c ∧ i = j := by
  by_cases hc : c <;> simp [hc]

theorem formatZ_eq_ok {i j : Instr} {w : Word} :
    formatZ i w = .ok j ↔ (zField w = 0 ∧ rdField w = 0 ∧ immField w = 0) ∧ i = j :=
  ite_eq_ok

theorem formatR_eq_ok {f : BitVec 5 → Instr} {j : Instr} {w : Word} :
    formatR f w = .ok j ↔ (zField w = 0 ∧ immField w = 0) ∧ f (rdField w) = j :=
  ite_eq_ok

theorem formatI_eq_ok {f : BitVec 16 → Instr} {j : Instr} {w : Word} :
    formatI f w = .ok j ↔ (zField w = 0 ∧ rdField w = 0) ∧ f (immField w) = j :=
  ite_eq_ok

theorem formatRI_eq_ok {f : BitVec 5 → BitVec 16 → Instr} {j : Instr} {w : Word} :
    formatRI f w = .ok j ↔ zField w = 0 ∧ f (rdField w) (immField w) = j :=
  ite_eq_ok

/-- One test of the opcode map. -/
theorem ok_of_ite {c : Prop} [Decidable c] {x y : Except DecodeError Instr} {i : Instr}
    (h : (if c then x else y) = .ok i) : c ∧ x = .ok i ∨ y = .ok i := by
  by_cases hc : c
  · exact .inl ⟨hc, by rwa [if_pos hc] at h⟩
  · exact .inr (by rwa [if_neg hc] at h)

/-- A row is selected by its opcode (R101). -/
theorem opField_of_decode {w : Word} {i : Instr} (h : decode w = .ok i) : opField w = i.opcode := by
  unfold decode at h
  iterate 23
    obtain ⟨hop, h⟩ | h := ok_of_ite h
    · simp only [formatZ_eq_ok, formatR_eq_ok, formatI_eq_ok, formatRI_eq_ok] at h
      rw [hop, ← h.2]
      rfl
  cases h

/-- The one word that selects CLR (R101, R104). -/
theorem eq_of_decode_clr {w : Word} (h : decode w = .ok .clr) : w = 0x01000000#32 := by
  have hop : opField w = 0x01#8 := opField_of_decode h
  unfold decode at h
  dsimp only at h
  rw [if_neg (by rw [hop]; decide), if_pos hop, formatZ_eq_ok] at h
  obtain ⟨⟨hz, hrd, himm⟩, -⟩ := h
  simp only [opField, zField, rdField, immField, BitVec.toNat_eq, BitVec.extractLsb'_toNat, Nat.shiftRight_eq_div_pow,
    BitVec.ofNat_eq_ofNat, BitVec.toNat_ofNat] at hop hz hrd himm ⊢
  have hw := w.isLt
  omega

theorem writeCommand_err {w : Word} {s t : State} (herr : s.err ≠ none) (hclr : w ≠ 0x01000000#32)
    (h : writeCommand w s = .next t) : t = s := by
  rcases writeCommand_cases h with ⟨i, hi, hexec⟩ | rfl | ⟨hnone, -⟩
  · have hne : i ≠ .clr := by
      rintro rfl
      exact hclr (eq_of_decode_clr hi)
    rw [exec_eq_accept, accept_sticky herr hne] at hexec
    cases hexec
    rfl
  · rfl
  · exact absurd hnone herr

/-- Settles O59: in the error state the port's writes but CLR's word, its reads and the assertion of reset leave ERR and
EINFO. -/
theorem errorLeftOnlyByClrOrReset : Obligations.ErrorLeftOnlyByClrOrReset := by
  intro s t rest a herr _ hpending hclr hrelease h
  rcases step_cases h with ⟨hidle, -⟩ | ⟨a', rest', hp, hact⟩
  · rw [hidle] at hpending
    cases hpending
  rw [hpending] at hp
  cases hp
  rcases hostAction_cases hact with ⟨r, rfl⟩ | ⟨off, d, u, rfl, hu, rfl⟩ | ⟨-, rfl⟩ | ⟨rfl, -⟩
  · exact ⟨rfl, rfl⟩
  · rcases writeRegister_cases hu with ⟨hoff, hcmd⟩ | rfl | ⟨sel, x, n, e, rfl⟩
    · have hd : d ≠ 0x01000000#32 := by
        rintro rfl
        exact hclr (congrArg (HostAction.write .bits32 · _) (BitVec.eq_of_toNat_eq hoff))
      have hu := writeCommand_err (s := { s with pending := rest }) herr hd hcmd
      subst hu
      exact ⟨rfl, rfl⟩
    · exact ⟨rfl, rfl⟩
    · exact ⟨rfl, rfl⟩
  · exact ⟨rfl, rfl⟩
  · exact absurd rfl hrelease

end Sys2Proof.Machine
end

section
/-! PROOFS. The host port (R41, R42, R44, R45): what a read of each register and window returns, and what a write to an operand
window replaces. -/

namespace Sys2Proof.Machine

/-! ### Bytes of a 1024-bit register (R71) -/

theorem getLsbD_setBigByte (x : BigWord) (i : Nat) (b : Byte) {k : Nat} (hk : k < 1024) :
    (setBigByte x i b).getLsbD k =
      if 8 * (127 - i) ≤ k ∧ k < 8 * (127 - i) + 8 then b.getLsbD (k - 8 * (127 - i)) else x.getLsbD k := by
  have hones : ∀ m, (0xFF#8 : Byte).getLsbD m = decide (m < 8) := by
    intro m
    rw [show (0xFF#8 : Byte) = BitVec.allOnes 8 from rfl, BitVec.getLsbD_allOnes]
  simp only [setBigByte, BitVec.zeroExtend, BitVec.getLsbD_or, BitVec.getLsbD_and, BitVec.getLsbD_not,
    BitVec.getLsbD_shiftLeft, BitVec.getLsbD_setWidth, hones, hk, decide_true, Bool.true_and]
  by_cases hlow : k < 8 * (127 - i)
  · simp [hlow]
  · by_cases hhigh : k < 8 * (127 - i) + 8
    · have h1 : k - 8 * (127 - i) < 8 := by omega
      have h2 : k - 8 * (127 - i) < 1024 := by omega
      simp [hlow, hhigh, h1, h2]
    · have h1 : ¬ k - 8 * (127 - i) < 8 := by omega
      have h2 : b.getLsbD (k - 8 * (127 - i)) = false := BitVec.getLsbD_of_ge _ _ (by omega)
      simp [hlow, hhigh, h1, h2]

theorem getLsbD_bigByte (x : BigWord) (j : Nat) {k : Nat} (hk : k < 8) :
    (bigByte x j).getLsbD k = x.getLsbD (8 * (127 - j) + k) := by
  simp [bigByte, hk]

/-- Replacing byte `i` leaves the other 127 (R45). -/
theorem bigByte_setBigByte (x : BigWord) (b : Byte) {i j : Nat} (hi : i < 128) (hj : j < 128) :
    bigByte (setBigByte x i b) j = if j = i then b else bigByte x j := by
  apply BitVec.eq_of_getLsbD_eq
  intro k hk
  rw [getLsbD_bigByte _ _ hk, getLsbD_setBigByte _ _ _ (by omega)]
  split
  · next hin =>
    have hji : j = i := by omega
    subst hji
    rw [if_pos rfl, Nat.add_sub_cancel_left]
  · next hout =>
    rw [if_neg (by omega), getLsbD_bigByte _ _ hk]

/-- Byte `i` as a number, byte 0 the most significant. -/
theorem byteWord_bigByte (x : BigWord) (i : Nat) :
    byteWord (bigByte x i) = BitVec.ofNat 32 (x.toNat / 256 ^ (127 - i) % 256) := by
  apply BitVec.eq_of_toNat_eq
  have hpow : (256 : Nat) ^ (127 - i) = 2 ^ (8 * (127 - i)) := by rw [pow_mul]; norm_num
  rw [byteWord, BitVec.toNat_setWidth, bigByte, BitVec.extractLsb'_toNat, Nat.shiftRight_eq_div_pow, hpow,
    BitVec.toNat_ofNat]

/-! ### Windows of the register map (R41) -/

theorem inWindow_word {base n i : Nat} (hbase : base % 4 = 0) (hi : i < n) : inWindow base n (base + 4 * i) = true := by
  simp [inWindow]
  omega

theorem not_inWindow_above {base n off : Nat} (h : base + 4 * n ≤ off) : ¬inWindow base n off = true := by
  simp [inWindow]
  omega

theorem windowIndex_word (base i : Nat) : windowIndex base (base + 4 * i) = i := by
  simp [windowIndex]

section Windows

variable (s : State) {i : Nat}

/-- Word `i` of MXB, MNB, MEB and MRB (R41). -/
theorem readRegister_operand (hi : i < 128) :
    readRegister s (0x400 + 4 * i) = some (byteWord (bigByte s.mx i)) ∧
      readRegister s (0x600 + 4 * i) = some (byteWord (bigByte s.mn i)) ∧
      readRegister s (0x800 + 4 * i) = some (byteWord (bigByte s.me i)) ∧
      readRegister s (0xA00 + 4 * i) = some (byteWord (bigByte s.mr i)) := by
  refine ⟨?_, ?_, ?_, ?_⟩ <;> unfold readRegister <;> iterate 11 rw [if_neg (by omega)]
  · rw [if_pos (inWindow_word rfl hi), windowIndex_word]
  · rw [if_neg (not_inWindow_above (by omega)), if_pos (inWindow_word rfl hi), windowIndex_word]
  · iterate 2 rw [if_neg (not_inWindow_above (by omega))]
    rw [if_pos (inWindow_word rfl hi), windowIndex_word]
  · iterate 3 rw [if_neg (not_inWindow_above (by omega))]
    rw [if_pos (inWindow_word rfl hi), windowIndex_word]

/-- Word `i` of DBUFW and SDATA (R41). -/
theorem readRegister_buffer (hi : i < 768) :
    readRegister s (0x1000 + 4 * i) = some (byteWord (s.dbufByte i)) ∧
      readRegister s (0x2000 + 4 * i) = some (byteWord (s.slotByte i)) := by
  constructor <;> unfold readRegister <;> iterate 11 rw [if_neg (by omega)]
  · iterate 4 rw [if_neg (not_inWindow_above (by omega))]
    rw [if_pos (inWindow_word rfl hi), windowIndex_word]
  · iterate 5 rw [if_neg (not_inWindow_above (by omega))]
    rw [if_pos (inWindow_word rfl hi), windowIndex_word]

/-- A write to word `i` of MXB, MNB and MEB (R41, R45). -/
theorem writeRegister_operand (hi : i < 128) (d : Word) :
    writeRegister (0x400 + 4 * i) d s = some (.next { s with mx := setBigByte s.mx i (d.extractLsb' 0 8) }) ∧
      writeRegister (0x600 + 4 * i) d s = some (.next { s with mn := setBigByte s.mn i (d.extractLsb' 0 8) }) ∧
      writeRegister (0x800 + 4 * i) d s = some (.next { s with me := setBigByte s.me i (d.extractLsb' 0 8) }) := by
  refine ⟨?_, ?_, ?_⟩ <;> unfold writeRegister <;> iterate 3 rw [if_neg (by omega)]
  · rw [if_pos (inWindow_word rfl hi), windowIndex_word]
  · rw [if_neg (not_inWindow_above (by omega)), if_pos (inWindow_word rfl hi), windowIndex_word]
  · iterate 2 rw [if_neg (not_inWindow_above (by omega))]
    rw [if_pos (inWindow_word rfl hi), windowIndex_word]

theorem writeRegister_ssel (d : Word) :
    writeRegister 0x02C d s = some (.next { s with ssel := d.extractLsb' 0 5 }) := rfl

end Windows

/-! ### Accesses at an open port -/

theorem State.portOpen_idle {s : State} (hline : s.resetLine = false) (hbusy : s.busy = false) (isRead : Bool) (off : Nat) :
    s.portOpen isRead off = true := by
  simp [State.portOpen, hline, hbusy]

theorem hostWrite_accepted {s t : State} {off : Nat} {d : Word} (hline : s.resetLine = false) (hbusy : s.busy = false)
    (h : writeRegister off d s = some (.next t)) : hostWrite .bits32 off d s = .next (t.answer .written) := by
  rw [hostWrite, if_pos ⟨rfl, State.portOpen_idle hline hbusy _ _⟩, h]

theorem hostRead_accepted {s : State} {off : Nat} {v : Word} (hline : s.resetLine = false) (hbusy : s.busy = false)
    (h : readRegister s off = some v) : hostRead .bits32 off s = .next (s.answer (.value v)) := by
  rw [hostRead, if_pos ⟨rfl, State.portOpen_idle hline hbusy _ _⟩, h]

/-- Settles O17: each window's write is `setBigByte` at the index its offset names (`bigByte_setBigByte`). -/
theorem operandWindowWrite : Obligations.OperandWindowWrite := by
  intro s i d hi hline hbusy
  obtain ⟨hmx, hmn, hme⟩ := writeRegister_operand s hi d
  refine ⟨⟨_, (hostWrite_accepted hline hbusy hmx :), ?_⟩, ⟨_, (hostWrite_accepted hline hbusy hmn :), ?_⟩,
    ⟨_, (hostWrite_accepted hline hbusy hme :), ?_⟩, (hostWrite_accepted hline hbusy (writeRegister_ssel s d) :)⟩
  all_goals exact fun j hj => bigByte_setBigByte _ _ hi hj

/-! ### Packed words (R41, R42, R44) -/

/-- The code of an error kind is one of 1 to 8 (R231). -/
theorem errCode_le (e : Option ErrorKind) : (errCode e).toNat ≤ 8 := by
  cases e with
  | none => decide
  | some k => cases k <;> decide

/-- Settles O15: the fields of `State.status` stand side by side in R42's order. -/
theorem statusFields : Obligations.StatusFields := by
  intro s
  refine ⟨?_, ?_, ?_, ?_, ?_, ?_, ?_, rfl, rfl, rfl, rfl, rfl, rfl, rfl, rfl, rfl, rfl, rfl, rfl, rfl, errCode_le⟩
  case refine_1 | refine_2 | refine_6 => simp only [State.status, BitVec.getLsbD_append]; simp
  all_goals
    apply BitVec.eq_of_getLsbD_eq
    intro k hk
    simp only [State.status, BitVec.getLsbD_extractLsb', BitVec.getLsbD_append]
    interval_cases k <;> simp

/-- Words side by side as a number. -/
theorem toNat_append_eq_add {m n : Nat} (x : BitVec m) (y : BitVec n) :
    (x ++ y).toNat = x.toNat * 2 ^ n + y.toNat := by
  rw [BitVec.toNat_append, ← Nat.shiftLeft_add_eq_or_of_lt y.isLt, Nat.shiftLeft_eq]

theorem lastDelimWord_eq (s : State) :
    s.lastDelimWord = BitVec.ofNat 32 ((if s.ldValid = true then 2 ^ 8 else 0) + s.lastDelim.toNat) := by
  have hbyte := s.lastDelim.isLt
  apply BitVec.eq_of_toNat_eq
  simp only [State.lastDelimWord, toNat_append_eq_add, BitVec.toNat_ofNat]
  cases s.ldValid <;> simp <;> omega

theorem nqPtr_eq (s : State) : s.nqPtr = BitVec.ofNat 32 (2 ^ 16 * s.nqt.toNat + s.nqh.toNat) := by
  have hnqt := s.nqt.isLt
  have hnqh := s.nqh.isLt
  apply BitVec.eq_of_toNat_eq
  simp only [State.nqPtr, toNat_append_eq_add, BitVec.toNat_ofNat]
  omega

theorem State.selectedSlot_eq (s : State) : s.selectedSlot = s.slot s.ssel.toNat := by
  have hssel := s.ssel.isLt
  simp [State.selectedSlot, State.slot, List.getD_eq_getElem?_getD, hssel]

theorem slotInfo_of_absent {s : State} (h : s.slot s.ssel.toNat = none) : s.slotInfo = 0 := by
  rw [State.slotInfo, State.selectedSlot_eq, h]
  rfl

theorem slotInfo_of_present {s : State} {bs : List Byte} (h : s.slot s.ssel.toNat = some bs) (hlen : bs.length ≤ 768) :
    s.slotInfo = BitVec.ofNat 32 (2 ^ 31 + bs.length) := by
  apply BitVec.eq_of_toNat_eq
  rw [State.slotInfo, State.selectedSlot_eq, h]
  simp only [slotLen, toNat_append_eq_add, BitVec.toNat_ofNat]
  simp
  omega

theorem slotByte_of_absent {s : State} (h : s.slot s.ssel.toNat = none) (i : Nat) : s.slotByte i = 0#8 := by
  rw [State.slotByte, State.selectedSlot_eq, h]

theorem slotByte_of_present {s : State} {bs : List Byte} (h : s.slot s.ssel.toNat = some bs) (i : Nat) :
    s.slotByte i = if hi : i < bs.length then bs[i] else 0#8 := by
  rw [State.slotByte, State.selectedSlot_eq, h]
  dsimp only
  split
  · next hi => exact List.getD_eq_getElem _ _ hi
  · next hi => exact List.getD_eq_default _ _ (by omega)

/-- Settles O21: the register map names a view at each offset, and each view's packed word or byte is the number R41 gives. -/
theorem windowsReadBytes : Obligations.WindowsReadBytes := by
  refine ⟨fun s off v hline hbusy h => hostRead_accepted hline hbusy h, fun s => ?_, fun s i hi => ?_, fun s i hi => ?_⟩
  · simp only [BitVec.ofNat_toNat, ← lastDelimWord_eq, ← nqPtr_eq]
    exact ⟨rfl, rfl, rfl, rfl, rfl, rfl, rfl, rfl, rfl⟩
  · simp only [← byteWord_bigByte]
    exact readRegister_operand s hi
  · have hinfo : readRegister s 0x030 = some s.slotInfo := rfl
    obtain ⟨hdbuf, hsdata⟩ := readRegister_buffer s hi
    rw [hdbuf, hsdata, hinfo]
    refine ⟨?_, fun habsent => ?_, fun bs hpresent hlen => ?_⟩
    · rw [State.dbufByte]
      split <;> rfl
    · rw [slotByte_of_absent habsent, slotInfo_of_absent habsent]
      exact ⟨rfl, rfl⟩
    · rw [slotByte_of_present hpresent, slotInfo_of_present hpresent hlen]
      refine ⟨?_, rfl⟩
      split <;> rfl

end Sys2Proof.Machine
end

section
/-! PROOFS. Accesses through the host port (20_memory.md): which ones it rejects (R82 to R84), and what a step that performs an
access does (R78, R80, R81). -/

namespace Sys2Proof.Machine

/-! ### Offsets the register map leaves out (R41, R82) -/

theorem not_inWindow {base n off : Nat} (h : off % 4 ≠ 0 ∨ off < base ∨ base + 4 * n ≤ off) : ¬inWindow base n off = true := by
  simp only [inWindow, Bool.and_eq_true, decide_eq_true_eq, beq_iff_eq]
  omega

theorem readRegister_eq_none {off : Nat} (s : State)
    (h : off % 4 ≠ 0 ∨ off = 0x000 ∨ off = 0x00C ∨ 0x034 ≤ off ∧ off < 0x400 ∨ 0xC00 ≤ off ∧ off < 0x1000 ∨
      0x1C00 ≤ off ∧ off < 0x2000 ∨ 0x2C00 ≤ off) : readRegister s off = none := by
  unfold readRegister
  iterate 11 rw [if_neg (by omega)]
  iterate 6 rw [if_neg (not_inWindow (by omega))]

theorem writeRegister_eq_none {off : Nat} (d : Word) (s : State)
    (h : off % 4 ≠ 0 ∨ off = 0x004 ∨ off = 0x008 ∨ 0x010 ≤ off ∧ off ≤ 0x028 ∨ 0x030 ≤ off ∧ off < 0x400 ∨ 0xA00 ≤ off) :
    writeRegister off d s = none := by
  unfold writeRegister
  iterate 3 rw [if_neg (by omega)]
  iterate 3 rw [if_neg (not_inWindow (by omega))]

/-! ### Rejected accesses (R83, R84) -/

section Rejected

variable {s : State} {wd : AccessWidth} {off : Nat}

theorem hostRead_rejected (h : wd ≠ .bits32 ∨ s.portOpen true off = false ∨ readRegister s off = none) :
    hostRead wd off s = .next (s.answer .rejected) := by
  unfold hostRead
  split
  · next haccepted =>
    obtain ⟨hwidth, hopen⟩ := haccepted
    rw [(h.resolve_left (absurd hwidth)).resolve_left (by simp [hopen])]
  · rfl

theorem hostWrite_rejected {d : Word}
    (h : wd ≠ .bits32 ∨ s.portOpen false off = false ∨ writeRegister off d s = none) :
    hostWrite wd off d s = .next (s.answer .rejected) := by
  unfold hostWrite
  split
  · next haccepted =>
    obtain ⟨hwidth, hopen⟩ := haccepted
    rw [(h.resolve_left (absurd hwidth)).resolve_left (by simp [hopen])]
  · rfl

/-- A read ends in an answer, whatever its width and offset and whether or not the port is open. -/
theorem hostRead_answers (wd : AccessWidth) (off : Nat) (s : State) : ∃ r, hostRead wd off s = .next (s.answer r) := by
  unfold hostRead
  split
  · split <;> exact ⟨_, rfl⟩
  · exact ⟨_, rfl⟩

end Rejected

theorem State.portOpen_busy {s : State} (hline : s.resetLine = false) (hbusy : s.busy = true) (isRead : Bool) (off : Nat) :
    s.portOpen isRead off = (isRead && off == 0x004) := by
  simp [State.portOpen, hline, hbusy]

/-- Settles O18: another width never reaches the register map, and the map has no register at the other offsets
(`readRegister_eq_none`, `writeRegister_eq_none`). -/
theorem rejectedAccessChangesNothing : Obligations.RejectedAccessChangesNothing := by
  intro s wd off d _
  refine ⟨fun h => ?_, fun h => ?_, fun h => ?_⟩
  · obtain hwidth | hoff := h
    · exact ⟨hostWrite_rejected (.inl hwidth), hostRead_rejected (.inl hwidth)⟩
    · exact ⟨hostWrite_rejected (.inr (.inr (writeRegister_eq_none d s (by omega)))),
        hostRead_rejected (.inr (.inr (readRegister_eq_none s (by omega))))⟩
  · exact hostRead_rejected (.inr (.inr (readRegister_eq_none s (by omega))))
  · exact hostWrite_rejected (.inr (.inr (writeRegister_eq_none d s (by omega))))

/-- Settles O20: while BUSY the port is open to a read of STATUS alone (`State.portOpen_busy`). -/
theorem busyPort : Obligations.BusyPort := by
  intro s wd off d hbusy hline
  have hopen := State.portOpen_busy hline hbusy
  refine ⟨?_, hostWrite_rejected (.inr (.inl (hopen false off))), fun hoff => ?_⟩
  · rw [hostRead, if_pos ⟨rfl, hopen true 0x004⟩]
    rfl
  · exact hostRead_rejected (.inr (.inl (by simp [hopen, hoff])))

/-! ### A step that finds an access next (R80) -/

theorem step_eq_hostAction {s : State} {a : HostAction} {rest : List HostAction} (h : s.pending = a :: rest) :
    step s = hostAction a { s with pending := rest } := by
  rw [step, stepOnce, h]

/-- Settles O19: a read ends in an answer (`hostRead_answers`). -/
theorem readChangesNothing : Obligations.ReadChangesNothing := by
  intro s wd off rest hpending
  rw [step_eq_hostAction hpending]
  exact hostRead_answers wd off.toNat { s with pending := rest }

theorem writeCommand_of_decode {w : Word} {i : Instr} (h : decode w = .ok i) (s : State) : writeCommand w s = exec i s := by
  rw [writeCommand, h]

/-- Settles O7: CMD is the register at offset 0, and every command answers a next state (`exec_next`). -/
theorem stepRunsDecodedCommand : Obligations.StepRunsDecodedCommand := by
  intro s w i rest hpending hline hbusy hdecode
  obtain ⟨t, ht⟩ := exec_next i { s with pending := rest }
  have hwrite : writeRegister 0x000 w { s with pending := rest } = some (.next t) :=
    congrArg some ((writeCommand_of_decode hdecode _).trans ht)
  rw [step_eq_hostAction hpending]
  exact ⟨t, ht, hostWrite_accepted (s := { s with pending := rest }) hline hbusy hwrite⟩

/-! ### PushRaw (R81) -/

theorem writeRegister_rawPush (s : State) (d : Word) :
    writeRegister 0x00C d s = some (.next (s.pushRaw (d.extractLsb' 0 8))) := rfl

theorem read_pushRaw_raw {s : State} (hraw : s.raw.wf = true) (b : Byte) (a : Nat) :
    (s.pushRaw b).raw.read a = if a = s.rawLen.toNat ∧ s.rawLen.toNat < 720 then b else s.raw.read a := by
  rw [State.pushRaw_raw]
  split
  · next hroom => simp only [Memory.read_write hraw, hroom, and_true]
  · next hfull => simp only [hfull, and_false, if_false]

/-- RAWLEN saturates: the increment stays inside its 16 bits. -/
theorem toNat_pushRaw_rawLen (s : State) (b : Byte) :
    (s.pushRaw b).rawLen.toNat = if s.rawLen.toNat < 65535 then s.rawLen.toNat + 1 else 65535 := by
  have hbits := s.rawLen.isLt
  rw [State.pushRaw_rawLen]
  split
  · rw [BitVec.toNat_add]
    exact Nat.mod_eq_of_lt (by simp; omega)
  · omega

/-- Settles O16: the step is `State.pushRaw` and the port's answer; what it stores and counts is `read_pushRaw_raw` and
`toNat_pushRaw_rawLen`. -/
theorem pushRawStores : Obligations.PushRawStores := by
  intro s d rest hpending hline hbusy hraw
  have hwrite := hostWrite_accepted (s := { s with pending := rest }) hline hbusy (writeRegister_rawPush _ d)
  exact ⟨_, (step_eq_hostAction hpending).trans hwrite, rfl, read_pushRaw_raw hraw (d.extractLsb' 0 8),
    toNat_pushRaw_rawLen s (d.extractLsb' 0 8)⟩

end Sys2Proof.Machine
end

section
/-! PROOFS. Command words (30_encoding.md): a word as its four fields, the selection of a row by mask and match word, and the
decoder as the inverse of the encoder. -/

namespace Sys2Proof

/-! ### A word as its four fields (R100) -/

theorem word_eq_iff {v w : Word} :
    v = w ↔ opField v = opField w ∧ zField v = zField w ∧ rdField v = rdField w ∧ immField v = immField w := by
  refine ⟨by rintro rfl; exact ⟨rfl, rfl, rfl, rfl⟩, fun ⟨hop, hz, hrd, himm⟩ => ?_⟩
  simp only [opField, zField, rdField, immField, BitVec.toNat_eq, BitVec.extractLsb'_toNat, Nat.shiftRight_eq_div_pow]
    at hop hz hrd himm ⊢
  have hv := v.isLt
  have hw := w.isLt
  omega

theorem encode_eq_iff {i : Instr} {w : Word} :
    encode i = w ↔ opField w = i.opcode ∧ zField w = 0 ∧ rdField w = i.rdBits ∧ immField w = i.immBits := by
  obtain ⟨hop, hz, hrd, himm⟩ := encode_fields i
  rw [word_eq_iff, hop, hz, hrd, himm, eq_comm, eq_comm (a := 0), eq_comm (a := i.rdBits), eq_comm (a := i.immBits)]

/-! ### The decoder on the words of one opcode -/

/-- The command of the same row with these values in the operands the row has (R101). -/
def Instr.withOperands (rd : BitVec 5) (imm : BitVec 16) : Instr → Instr
  | .rdstrs _ _ => .rdstrs rd imm
  | .rdraw _ _ => .rdraw rd imm
  | .datel _ _ => .datel rd imm
  | .code _ _ => .code rd imm
  | .rdstr _ => .rdstr rd
  | .rdopt _ => .rdopt rd
  | .rddec2 _ => .rddec2 rd
  | .dateg _ => .dateg rd
  | .gender _ => .gender rd
  | .ldkey _ => .ldkey imm
  | .ldblk _ => .ldblk imm
  | .decblk _ => .decblk imm
  | .skip _ => .skip imm
  | i => i

@[simp] theorem Instr.opcode_withOperands (rd : BitVec 5) (imm : BitVec 16) (i : Instr) :
    (i.withOperands rd imm).opcode = i.opcode := by
  cases i <;> rfl

@[simp] theorem Instr.withOperands_self (i : Instr) : i.withOperands i.rdBits i.immBits = i := by
  cases i <;> rfl

/-- Under the opcode of a row the decoder reads the row's operands, and accepts the word if it is the word of the
command so read. -/
theorem decode_of_opField {w : Word} {i : Instr} (hop : opField w = i.opcode) :
    decode w = if encode (i.withOperands (rdField w) (immField w)) = w
      then .ok (i.withOperands (rdField w) (immField w)) else .error .reservedField := by
  cases i <;> simp only [decode, hop, Instr.opcode, BitVec.reduceEq, ↓reduceIte, formatZ, formatR, formatI, formatRI] <;>
    exact if_congr (by simp [encode_eq_iff, hop, Instr.withOperands, Instr.opcode, Instr.rdBits, Instr.immBits]) rfl rfl

/-! ### Mask and match word (R101) -/

theorem fields_matchWord (op : Byte) :
    opField (op.zeroExtend 32 <<< 24) = op ∧ zField (op.zeroExtend 32 <<< 24) = 0 ∧
      rdField (op.zeroExtend 32 <<< 24) = 0 ∧ immField (op.zeroExtend 32 <<< 24) = 0 := by
  have hop := op.isLt
  simp only [opField, zField, rdField, immField, BitVec.toNat_eq, BitVec.extractLsb'_toNat, Nat.shiftRight_eq_div_pow,
    BitVec.toNat_shiftLeft, BitVec.toNat_setWidth, Nat.shiftLeft_eq, BitVec.ofNat_eq_ofNat, BitVec.toNat_ofNat]
  omega

theorem opField_mask (i : Instr) : opField i.mask = BitVec.allOnes 8 := by
  cases i <;> simp only [Instr.mask] <;> decide

theorem zField_mask (i : Instr) : zField i.mask = BitVec.allOnes 3 := by
  cases i <;> simp only [Instr.mask] <;> decide

theorem and_rdField_mask (rd : BitVec 5) (imm : BitVec 16) (i : Instr) :
    rd &&& rdField i.mask = 0 ↔ rd = (i.withOperands rd imm).rdBits := by
  have hones : rdField 0xFFFFFFFF#32 = BitVec.allOnes 5 ∧ rdField 0xFFFF0000#32 = BitVec.allOnes 5 := by decide
  have hzeros : rdField 0xFFE0FFFF#32 = 0#5 ∧ rdField 0xFFE00000#32 = 0#5 := by decide
  cases i <;> simp only [Instr.mask, hones, hzeros, BitVec.and_allOnes, BitVec.and_zero, BitVec.ofNat_eq_ofNat,
    Instr.withOperands, Instr.rdBits]

theorem and_immField_mask (rd : BitVec 5) (imm : BitVec 16) (i : Instr) :
    imm &&& immField i.mask = 0 ↔ imm = (i.withOperands rd imm).immBits := by
  have hones : immField 0xFFFFFFFF#32 = BitVec.allOnes 16 ∧ immField 0xFFE0FFFF#32 = BitVec.allOnes 16 := by decide
  have hzeros : immField 0xFFFF0000#32 = 0#16 ∧ immField 0xFFE00000#32 = 0#16 := by decide
  cases i <;> simp only [Instr.mask, hones, hzeros, BitVec.and_allOnes, BitVec.and_zero, BitVec.ofNat_eq_ofNat,
    Instr.withOperands, Instr.immBits]

theorem opField_and_mask (w : Word) (i : Instr) : opField (w &&& i.mask) = opField w := by
  have hand : opField (w &&& i.mask) = opField w &&& opField i.mask := BitVec.extractLsb'_and
  rw [hand, opField_mask, BitVec.and_allOnes]

theorem zField_and_mask (w : Word) (i : Instr) : zField (w &&& i.mask) = zField w := by
  have hand : zField (w &&& i.mask) = zField w &&& zField i.mask := BitVec.extractLsb'_and
  rw [hand, zField_mask, BitVec.and_allOnes]

/-- A word agrees with a row's match word under its mask exactly when it is the word of that row with the word's own
operands. -/
theorem and_mask_eq_iff {w : Word} {i : Instr} :
    w &&& i.mask = i.opcode.zeroExtend 32 <<< 24 ↔ encode (i.withOperands (rdField w) (immField w)) = w := by
  obtain ⟨hop, hz, hrd, himm⟩ := fields_matchWord i.opcode
  have hrdand : rdField (w &&& i.mask) = rdField w &&& rdField i.mask := BitVec.extractLsb'_and
  have himmand : immField (w &&& i.mask) = immField w &&& immField i.mask := BitVec.extractLsb'_and
  rw [word_eq_iff, hop, hz, hrd, himm, opField_and_mask, zField_and_mask, hrdand, himmand,
    and_rdField_mask _ (immField w), and_immField_mask (rdField w), encode_eq_iff, Instr.opcode_withOperands]

/-! ### The round trips -/

theorem decode_eq_ok_iff {w : Word} {i : Instr} : decode w = .ok i ↔ encode i = w := by
  refine ⟨fun h => ?_, ?_⟩
  · rw [decode_of_opField (Machine.opField_of_decode h), Machine.ite_eq_ok] at h
    obtain ⟨hword, hi⟩ := h
    rwa [hi] at hword
  · rintro rfl
    obtain ⟨hop, -, hrd, himm⟩ := encode_fields i
    rw [decode_of_opField hop, hrd, himm, Instr.withOperands_self, if_pos rfl]

/-- Settles O1: the decoder reads back the fields of the word (`decode_eq_ok_iff`). -/
theorem decodeInvertsEncode : Obligations.DecodeInvertsEncode :=
  fun _ => decode_eq_ok_iff.mpr rfl

/-- Settles O2: the other direction of `decode_eq_ok_iff`. -/
theorem encodeInvertsDecode : Obligations.EncodeInvertsDecode :=
  fun _ _ => decode_eq_ok_iff.mp

/-- Settles O4: the words are those `encode` gives the six commands. -/
theorem familyWordsDecode : Obligations.FamilyWordsDecode :=
  ⟨decodeInvertsEncode .run, decodeInvertsEncode (.ldkey 1#16), decodeInvertsEncode (.ldblk 5#16),
    decodeInvertsEncode (.rdraw 12#5 13#16), decodeInvertsEncode (.rdopt 5#5), decodeInvertsEncode (.datel 14#5 4#16)⟩

/-- Settles O3: a word that agrees with a match word under the mask is the word of a command of that row
(`and_mask_eq_iff`), and the decoder answers that command. -/
theorem maskAndMatchSelect : Obligations.MaskAndMatchSelect := by
  intro w i
  rw [and_mask_eq_iff]
  refine ⟨fun h => ⟨_, decode_eq_ok_iff.mpr h, Instr.opcode_withOperands _ _ i⟩, ?_⟩
  rintro ⟨j, hj, hopcode⟩
  have hop : opField w = i.opcode := (Machine.opField_of_decode hj).trans hopcode
  rw [decode_of_opField hop, Machine.ite_eq_ok] at hj
  obtain ⟨hword, -⟩ := hj
  exact hword

end Sys2Proof
end

section
/-! PROOFS. Words that select no row and operands out of range (30_encoding.md): both are the stop IllegalCommand (R105 to
R107). -/

namespace Sys2Proof.Machine

/-! ### Words that select no row (R105, R106) -/

theorem opcode_toNat_range (i : Instr) :
    i.opcode.toNat ≤ 0x02 ∨ 0x10 ≤ i.opcode.toNat ∧ i.opcode.toNat ≤ 0x12 ∨
      0x18 ≤ i.opcode.toNat ∧ i.opcode.toNat ≤ 0x1C ∨ 0x20 ≤ i.opcode.toNat ∧ i.opcode.toNat ≤ 0x27 ∨
      0x30 ≤ i.opcode.toNat ∧ i.opcode.toNat ≤ 0x33 := by
  cases i <;> simp only [Instr.opcode] <;> decide

/-- One test of the opcode map after the other fails, and only the last answer is left (R105). -/
theorem decode_of_no_opcode {w : Word} (h : ∀ i : Instr, opField w ≠ i.opcode) : decode w = .error .reservedOpcode := by
  unfold decode
  exact (if_neg (h .nop)).trans <| (if_neg (h .clr)).trans <| (if_neg (h .run)).trans <| (if_neg (h .chklen)).trans <|
    (if_neg (h .verdet)).trans <| (if_neg (h (.ldkey 0))).trans <| (if_neg (h (.ldblk 0))).trans <|
    (if_neg (h .modexp)).trans <| (if_neg (h .append)).trans <| (if_neg (h (.decblk 0))).trans <|
    (if_neg (h .assemble)).trans <| (if_neg (h .seek)).trans <| (if_neg (h (.rdstrs 0 0))).trans <|
    (if_neg (h (.rdstr 0))).trans <| (if_neg (h (.rdopt 0))).trans <| (if_neg (h (.rdraw 0 0))).trans <|
    (if_neg (h (.rddec2 0))).trans <| (if_neg (h (.skip 0))).trans <| (if_neg (h .nqload)).trans <|
    (if_neg (h (.dateg 0))).trans <| (if_neg (h (.datel 0 0))).trans <| (if_neg (h (.code 0 0))).trans <|
    (if_neg (h (.gender 0)))

/-- Step 3 of R103 in a ready state. -/
theorem writeCommand_of_error {w : Word} {e : DecodeError} (h : decode w = .error e) {s : State} (hready : s.Ready) :
    writeCommand w s = .next (s.stop .illegalCommand (opField w) false) := by
  obtain ⟨hbusy, herr⟩ := hready
  simp [writeCommand, h, acceptNoRow, hbusy, herr]

/-- Settles O5: no row has an opcode in the reserved ranges; under a row's opcode a word outside its mask is not the word of
any operands (`and_mask_eq_iff`). -/
theorem reservedWordsStop : Obligations.ReservedWordsStop := by
  intro w s hready
  refine ⟨fun hreserved => ?_, fun i hop hmask => ?_⟩
  · have hdecode : decode w = .error .reservedOpcode := decode_of_no_opcode fun i hop => by
      have hrange := opcode_toNat_range i
      rw [hop] at hreserved
      omega
    exact ⟨hdecode, writeCommand_of_error hdecode hready⟩
  · have hdecode : decode w = .error .reservedField := by
      rw [decode_of_opField hop, if_neg (mt and_mask_eq_iff.mpr hmask)]
    exact ⟨hdecode, writeCommand_of_error hdecode hready⟩

/-! ### Operand ranges (R107) -/

/-- An immediate of 0 is legal: no slot number reaches 32. -/
theorem wellFormed_of_immBits_eq_zero {i : Instr} (h : i.immBits = 0) : i.wellFormed = true := by
  cases i
  case rdstrs rd count | datel rd count =>
    have hcount : count = 0 := h
    have hrd := rd.isLt
    simp [Instr.wellFormed, hcount]
    omega
  case ldkey v | ldblk v | decblk v | code _ v =>
    have hv : v = 0 := h
    simp [Instr.wellFormed, hv]
  all_goals rfl

theorem exec_illegal {i : Instr} {s : State} (h : s.Ready) (hw : i.wellFormed = false) :
    exec i s = .next (s.stop .illegalCommand i.opcode false) := by
  rw [exec_eq_accept, accept_illegal h hw]

/-- Settles O6: `Instr.wellFormed` is the ranges, and a command outside them stops before any effect (`exec_illegal`). -/
theorem operandRanges : Obligations.OperandRanges := by
  intro s hready
  refine ⟨fun cls => ?_, fun k => ?_, fun rd n => ?_, fun rd n => ?_, fun _ _ => ⟨rfl, rfl⟩, fun i hill himm => ?_⟩
  · split
    · next h => exact decide_eq_true h
    · next h => exact exec_illegal hready (decide_eq_false h)
  · split
    · next h => exact ⟨decide_eq_true h, decide_eq_true h⟩
    · next h => exact ⟨exec_illegal hready (decide_eq_false h), exec_illegal hready (decide_eq_false h)⟩
  · split
    · next h => exact ⟨decide_eq_true h, decide_eq_true h⟩
    · next h => exact ⟨exec_illegal hready (decide_eq_false h), exec_illegal hready (decide_eq_false h)⟩
  · split
    · next h => exact decide_eq_true h
    · next h => exact exec_illegal hready (decide_eq_false h)
  · rw [wellFormed_of_immBits_eq_zero himm] at hill
    cases hill

end Sys2Proof.Machine
end

section
/-! PROOFS. CHKLEN, VERDET and LDKEY (40_version_key.md): what each body does on each of its inputs, and the command around
it. -/

namespace Sys2Proof.Machine

/-! ### Completion and stop of a command (R103, R236) -/

theorem State.setBusy_of_busy_eq {s : State} {b : Bool} (h : s.busy = b) : s.setBusy b = s := by
  rw [State.setBusy, ← h]

/-- A command whose body completes in `t`, but for BUSY. -/
theorem command_completes {i : Instr} {body : Body} {s t : State} (hs : s.Ready) (hw : i.wellFormed = true) (hi : i ≠ .nop)
    (ht : t.busy = false) (hb : body (s.accepted.setBusy true) = .ok () (t.setBusy true)) :
    command i body s = .next t :=
  calc command i body s
    _ = .next ((t.setBusy true).setBusy false) := command_ok hs hw hi hb
    _ = .next (t.setBusy false) := rfl
    _ = .next t := by rw [State.setBusy_of_busy_eq ht]

/-- A command whose body raises before it writes anything: the stop overwrites what acceptance wrote. -/
theorem command_stops {i : Instr} {body : Body} {s : State} {k : ErrorKind} (hs : s.Ready) (hw : i.wellFormed = true)
    (hi : i ≠ .nop) (hb : body (s.accepted.setBusy true) = .raise k (s.accepted.setBusy true)) :
    command i body s = .next (s.stop k i.opcode false) :=
  calc command i body s
    _ = .next ((s.accepted.setBusy true).stop k i.opcode false) := command_raise hs hw hi hb
    _ = .next (s.stop k i.opcode false) := rfl

/-! ### CHKLEN (R131) -/

theorem lengthCheck_ok {s : State} (h : s.rawLen.toNat = 720) : lengthCheck s = .ok () s :=
  if_pos (BitVec.eq_of_toNat_eq h)

theorem lengthCheck_raise {s : State} (h : s.rawLen.toNat ≠ 720) : lengthCheck s = .raise .insufficientBytes s :=
  if_neg fun hlen => h (congrArg BitVec.toNat hlen)

/-- Settles O25: CHKLEN's body is the length check. -/
theorem chklenChecksLength : Obligations.ChklenChecksLength :=
  ⟨decodeInvertsEncode .chklen, fun _ hs =>
    ⟨fun hlen => command_completes hs rfl (by decide) hs.1 (lengthCheck_ok hlen),
      fun hlen => command_stops hs rfl (by decide) (lengthCheck_raise hlen)⟩⟩

/-! ### VERDET (R132, R133) -/

theorem verdet_length {s : State} (h : s.rawLen.toNat ≠ 720) : verdet s = .raise .insufficientBytes s := by
  rw [verdet, lengthCheck_raise h, Res.bind_raise]

theorem verdet_v1 {s : State} (hlen : s.rawLen.toNat = 720) (h1 : s.raw.readRange 0 4 = s.config.magicV1.toList) :
    verdet s = .ok () { s with ver := .v1 } := by
  rw [verdet, lengthCheck_ok hlen, Res.bind_ok]
  exact if_pos h1

/-- No prefix is both constants (R11, R133). -/
theorem magicV1_ne_magicV2_toList (c : Config) : c.magicV1.toList ≠ c.magicV2.toList := by
  obtain ⟨hmagic, -⟩ := c.legal_iff.mp c.isLegal
  exact fun h => hmagic (Vector.toList_inj.mp h)

theorem verdet_v2 {s : State} (hlen : s.rawLen.toNat = 720) (h2 : s.raw.readRange 0 4 = s.config.magicV2.toList) :
    verdet s = .ok () { s with ver := .v2 } := by
  have h1 : s.raw.readRange 0 4 ≠ s.config.magicV1.toList := h2 ▸ (magicV1_ne_magicV2_toList s.config).symm
  rw [verdet, lengthCheck_ok hlen, Res.bind_ok]
  exact (if_neg h1).trans (if_pos h2)

theorem verdet_unknown {s : State} (hlen : s.rawLen.toNat = 720) (h1 : s.raw.readRange 0 4 ≠ s.config.magicV1.toList)
    (h2 : s.raw.readRange 0 4 ≠ s.config.magicV2.toList) : verdet s = .raise .unknownVersion s := by
  rw [verdet, lengthCheck_ok hlen, Res.bind_ok]
  exact (if_neg h1).trans (if_neg h2)

/-- Settles O26: one clause for each outcome of VERDET's body. -/
theorem verdetDetectsVersion : Obligations.VerdetDetectsVersion := by
  refine ⟨decodeInvertsEncode .verdet, fun s hs => ⟨fun hlen => ?_, fun hlen h1 => ?_, fun hlen h2 => ?_,
    fun hlen h1 h2 => ?_⟩⟩
  · exact command_stops hs rfl (by decide) (verdet_length hlen)
  · exact command_completes hs rfl (by decide) hs.1 (verdet_v1 hlen h1)
  · exact command_completes hs rfl (by decide) hs.1 (verdet_v2 hlen h2)
  · exact command_stops hs rfl (by decide) (verdet_unknown hlen h1 h2)

/-! ### LDKEY (R134) -/

theorem loadKey_none {s : State} {cls : BlockClass} (h : keyOf s.config s.ver cls = none) :
    loadKey cls s = .raise .configError s := by
  rw [loadKey, h]

theorem loadKey_some {s : State} {cls : BlockClass} {key : KeyParams} (h : keyOf s.config s.ver cls = some key) :
    loadKey cls s = .ok () { s with mn := key.n, me := key.e } := by
  rw [loadKey, h]

/-- LDKEY of a class that the KeyStore has a pair for. -/
theorem exec_ldkey_some {s : State} {cls : BitVec 16} {key : KeyParams} (hs : s.Ready) (hcls : cls.toNat ≤ 1)
    (hkey : keyOf s.config s.ver (classOf cls) = some key) :
    exec (.ldkey cls) s = .next { s with mn := key.n, me := key.e, recValid := false } :=
  command_completes hs (decide_eq_true hcls) (by simp) hs.1 (loadKey_some hkey)

/-- LDKEY with no version detected. -/
theorem exec_ldkey_none {s : State} {cls : BitVec 16} (hs : s.Ready) (hcls : cls.toNat ≤ 1) (hver : s.ver = .none) :
    exec (.ldkey cls) s = .next (s.stop .configError 0x12#8 false) := by
  have hkey : keyOf s.config s.ver (classOf cls) = none := by rw [hver, keyOf]
  exact command_stops hs (decide_eq_true hcls) (by simp) (loadKey_none hkey)

/-- Settles O27: the KeyStore has a pair for each version and class (`keyOf`), and none without a version. -/
theorem ldkeyLoadsKey : Obligations.LdkeyLoadsKey := by
  refine ⟨decodeInvertsEncode (.ldkey 0#16), decodeInvertsEncode (.ldkey 1#16), fun s hs =>
    ⟨fun cls hcls hver => exec_ldkey_none hs hcls hver, fun hver => ?_, fun hver => ?_, fun hver => ?_, fun hver => ?_⟩⟩
  all_goals exact exec_ldkey_some hs (by decide) (by rw [hver]; rfl)

end Sys2Proof.Machine
end

section
/-! PROOFS. LDBLK, MODEXP and APPEND (41_modexp.md): what each body does on each of its inputs, the natural byte length, and
the commands around the bodies. -/

namespace Sys2Proof

/-- The word of a command of format I: op, eight zero bits, imm (R100, R101). -/
theorem decode_formatI {i : Instr} {op : Byte} {imm : BitVec 16} (hop : i.opcode = op) (hrd : i.rdBits = 0)
    (himm : i.immBits = imm) : decode (op ++ 0#8 ++ imm) = .ok i := by
  subst hop himm
  have hzero : i.opcode ++ 0#3 ++ 0#5 = i.opcode ++ 0#8 := by
    rw [BitVec.append_assoc]
    rfl
  rw [decode_eq_ok_iff, encode, hrd]
  exact congrArg (· ++ i.immBits) hzero

end Sys2Proof

namespace Sys2Proof.Machine

set_option exponentiation.threshold 2000

/-! ### LDBLK (R141) -/

theorem loadBlock_raise {s : State} {k : Nat} (h : s.rawLen.toNat ≠ 720) :
    loadBlock k s = .raise .insufficientBytes s := by
  rw [loadBlock, lengthCheck_raise h, Res.bind_raise]

theorem loadBlock_ok {s : State} {k : Nat} (h : s.rawLen.toNat = 720) :
    loadBlock k s = .ok () { s with mx := BitVec.ofNat 1024 (blockValue s.raw k) } := by
  rw [loadBlock, lengthCheck_ok h, Res.bind_ok]

theorem blockValue_large (raw : Memory 8) {k : Nat} (h : k ≤ 4) :
    blockValue raw k = beInt (raw.readRange (6 + 128 * k) 128) := by
  rw [blockValue, blockStart, blockLen, if_pos h, if_pos h]

theorem blockValue_trail (raw : Memory 8) {k : Nat} (h : k = 5) : blockValue raw k = beInt (raw.readRange 646 74) := by
  subst h
  rfl

/-- A block fits the register. -/
theorem toNat_ofNat_blockValue (raw : Memory 8) (k : Nat) :
    (BitVec.ofNat 1024 (blockValue raw k)).toNat = blockValue raw k := by
  rw [BitVec.toNat_ofNat, Nat.mod_eq_of_lt (blockValue_lt raw k)]

/-- LDBLK with a whole input. -/
theorem exec_ldblk_ok {s : State} {k : BitVec 16} (hs : s.Ready) (hk : k.toNat ≤ 5) (hlen : s.rawLen.toNat = 720) :
    exec (.ldblk k) s = .next { s with mx := BitVec.ofNat 1024 (blockValue s.raw k.toNat), recValid := false } :=
  command_completes hs (decide_eq_true hk) (by simp) hs.1 (loadBlock_ok hlen)

/-- Settles O28: LDBLK's body is the length check and the load. -/
theorem ldblkLoadsBlock : Obligations.LdblkLoadsBlock := by
  refine ⟨fun k => decode_formatI rfl rfl rfl, fun s k hs hk => ⟨fun hlen => ?_, fun hlen => ?_⟩⟩
  · exact command_stops hs (decide_eq_true hk) (by simp) (loadBlock_raise hlen)
  · have hvalue := toNat_ofNat_blockValue s.raw k.toNat
    exact ⟨_, exec_ldblk_ok hs hk hlen, fun h4 => hvalue.trans (blockValue_large s.raw h4),
      fun h5 => hvalue.trans (blockValue_trail s.raw h5)⟩

/-! ### The natural byte length (R144) -/

/-- The first byte of the natural encoding is the quotient by the greatest power of 256 that is not above the integer. -/
theorem head?_beBytes_byteLen (c : Config) {v : Nat} (h : v ≠ 0) : (beBytes v (byteLen c v)).head? ≠ some 0 := by
  obtain ⟨hlt, hle⟩ := byteLen_bounds c h
  obtain ⟨m, hm⟩ : ∃ m, byteLen c v = m + 1 := ⟨Nat.log2 v / 8, if_neg h⟩
  rw [hm, Nat.add_sub_cancel] at hle
  rw [hm, pow_succ] at hlt
  have hpos : 0 < v / 256 ^ m := Nat.div_pos hle (by positivity)
  have hbyte : v / 256 ^ m < 256 := Nat.div_lt_of_lt_mul hlt
  rw [hm, beBytes, List.head?_cons, Ne, Option.some.injEq, BitVec.toNat_eq, BitVec.toNat_ofNat, Nat.mod_eq_of_lt hbyte]
  exact hpos.ne'

/-- Settles O30: a positive integer lies between the powers of 256 that its byte length names (`byteLen_bounds`). -/
theorem naturalByteLength : Obligations.NaturalByteLength := by
  refine fun c v => ⟨fun h => if_pos h, fun hpos => ⟨lt_pow_byteLen c v, fun k hk => ?_, ?_⟩, ?_, byteLen_le_128⟩
  · have hk0 : k ≠ 0 := by
      rintro rfl
      omega
    exact byteLen_le (Nat.one_le_iff_ne_zero.mpr hk0) hk
  · exact head?_beBytes_byteLen c hpos.ne'
  · rw [beInt_beBytes, Nat.mod_eq_of_lt (lt_pow_byteLen c v)]

/-! ### MODEXP (R142, R143) -/

theorem modexp_raise {s : State} (h : s.mn = 0) : modexp s = .raise .unspecified s := if_pos h

theorem modexp_ok {s : State} (h : s.mn ≠ 0) :
    modexp s = .ok () { s with
      mr := BitVec.ofNat 1024 (s.mx.toNat ^ s.me.toNat % s.mn.toNat)
      mrLen := BitVec.ofNat 8 (byteLen s.config (s.mx.toNat ^ s.me.toNat % s.mn.toNat)) } := by
  rw [← modexpValue_eq s.mx.toNat s.mn.toNat s.me.isLt]
  exact if_neg h

/-- MODEXP with a modulus. -/
theorem exec_modexp_ok {s : State} (hs : s.Ready) (hmn : s.mn ≠ 0) :
    exec .modexp s = .next { s with
      mr := BitVec.ofNat 1024 (s.mx.toNat ^ s.me.toNat % s.mn.toNat)
      mrLen := BitVec.ofNat 8 (byteLen s.config (s.mx.toNat ^ s.me.toNat % s.mn.toNat)), recValid := false } :=
  command_completes hs rfl (by decide) hs.1 (modexp_ok hmn)

theorem toNat_ofNat_byteLen (c : Config) {v : Nat} (h : v < 2 ^ 1024) :
    (BitVec.ofNat 8 (byteLen c v)).toNat = byteLen c v := by
  have hlen : byteLen c v ≤ 128 := byteLen_le_128 h
  rw [BitVec.toNat_ofNat, Nat.mod_eq_of_lt (by omega)]

/-- Settles O29: the loop computes the power (`modexpValue_eq`), which is below the modulus and so fits MR. -/
theorem modexpComputesPower : Obligations.ModexpComputesPower := by
  refine ⟨decodeInvertsEncode .modexp, fun s hs => ⟨fun hmn => ?_, fun hmn => ?_⟩⟩
  · have hpos : 0 < s.mn.toNat := by bv_omega
    have hfits : s.mx.toNat ^ s.me.toNat % s.mn.toNat < 2 ^ 1024 := (Nat.mod_lt _ hpos).trans s.mn.isLt
    have hpower : (BitVec.ofNat 1024 (s.mx.toNat ^ s.me.toNat % s.mn.toNat)).toNat =
        s.mx.toNat ^ s.me.toNat % s.mn.toNat := by
      rw [BitVec.toNat_ofNat, Nat.mod_eq_of_lt hfits]
    refine ⟨_, _, exec_modexp_ok hs hmn, hpower, ?_⟩
    rw [toNat_ofNat_byteLen s.config hfits, hpower]
  · exact command_stops hs rfl (by decide) (modexp_raise hmn)

/-! ### APPEND (R146) -/

theorem append_raise {s : State} (h : 768 < s.dlen.toNat + s.mrLen.toNat) : append s = .raise .illegalCommand s :=
  if_pos h

theorem append_ok {s : State} (h : s.dlen.toNat + s.mrLen.toNat ≤ 768) :
    append s = .ok () { s with
      dbuf := s.dbuf.writeRange s.dlen.toNat (beBytes s.mr.toNat s.mrLen.toNat)
      dlen := BitVec.ofNat 10 (s.dlen.toNat + s.mrLen.toNat) } :=
  if_neg (Nat.not_lt.mpr h)

/-- APPEND with room for the result. -/
theorem exec_append_ok {s : State} (hs : s.Ready) (h : s.dlen.toNat + s.mrLen.toNat ≤ 768) :
    exec .append s = .next { s with
      dbuf := s.dbuf.writeRange s.dlen.toNat (beBytes s.mr.toNat s.mrLen.toNat)
      dlen := BitVec.ofNat 10 (s.dlen.toNat + s.mrLen.toNat), recValid := false } :=
  command_completes hs rfl (by decide) hs.1 (append_ok h)

/-- An integer that fits k bytes is read back from its k-byte encoding. -/
theorem beInt_readRange_writeRange {m : Memory 8} (hm : m.wf = true) (a : Nat) {v k : Nat} (h : v < 256 ^ k) :
    beInt ((m.writeRange a (beBytes v k)).readRange a k) = v := by
  have hread := Memory.readRange_writeRange hm a (beBytes v k)
  rw [length_beBytes] at hread
  rw [hread, beInt_beBytes, Nat.mod_eq_of_lt h]

/-- Settles O31: the bytes stored are read back whole, and the range write leaves every other byte alone. -/
theorem appendStoresResult : Obligations.AppendStoresResult := by
  refine ⟨decodeInvertsEncode .append, fun s hs => ⟨fun hfull => ?_, fun hfits hwf hmr => ?_⟩⟩
  · exact command_stops hs rfl (by decide) (append_raise hfull)
  · refine ⟨_, exec_append_ok hs hfits, rfl, ?_, ?_, fun a ha => ?_⟩
    · rw [BitVec.toNat_ofNat, Nat.mod_eq_of_lt (by omega)]
    · exact beInt_readRange_writeRange hwf s.dlen.toNat hmr
    · exact Memory.read_writeRange_ne (by rwa [length_beBytes])

end Sys2Proof.Machine
end

section
/-! PROOFS. DECBLK and ASSEMBLE (41_modexp.md): one block decrypted and appended, a list of blocks joined, and the commands
around them. -/

namespace Sys2Proof.Machine

set_option exponentiation.threshold 2000

/-! ### DECBLK (R148) -/

theorem rawLen_eq_of_toNat {s : State} (h : s.rawLen.toNat = 720) : s.rawLen = 720#16 := BitVec.eq_of_toNat_eq h

theorem rawLen_ne_of_toNat {s : State} (h : s.rawLen.toNat ≠ 720) : s.rawLen ≠ 720#16 :=
  fun hlen => h (congrArg BitVec.toNat hlen)

/-- A command whose body raises in `t`, but for RECVALID and BUSY, which the stop clears again (R236). -/
theorem command_stops_in {i : Instr} {body : Body} {s t : State} {k : ErrorKind} (hs : s.Ready) (hw : i.wellFormed = true)
    (hi : i ≠ .nop) (hb : body (s.accepted.setBusy true) = .raise k (t.accepted.setBusy true)) :
    command i body s = .next (t.stop k i.opcode false) :=
  calc command i body s
    _ = .next ((t.accepted.setBusy true).stop k i.opcode false) := command_raise hs hw hi hb
    _ = .next (t.stop k i.opcode false) := rfl

section Decblk

variable {s : State} {k : BitVec 16} (hs : s.Ready) (hk : k.toNat ≤ 5)
include hs hk

theorem exec_decblk_length (hlen : s.rawLen.toNat ≠ 720) :
    exec (.decblk k) s = .next (s.stop .insufficientBytes 0x1B#8 false) :=
  command_stops hs (decide_eq_true hk) (by simp) (decryptBlock_length (rawLen_ne_of_toNat hlen))

theorem exec_decblk_no_version (hlen : s.rawLen.toNat = 720) (hver : s.ver = .none) :
    exec (.decblk k) s = .next
      (({ s with mx := BitVec.ofNat 1024 (blockValue s.raw k.toNat) } : State).stop .configError 0x1B#8 false) :=
  command_stops_in hs (decide_eq_true hk) (by simp) (decryptBlock_no_version (rawLen_eq_of_toNat hlen) hver)

variable {key : KeyParams} (hlen : s.rawLen.toNat = 720)
  (hkey : keyOf s.config s.ver (classOfBlock k.toNat) = some key)
include hlen hkey

theorem exec_decblk_fits (hfits : s.dlen.toNat + byteLen s.config (blockPlain s.raw k.toNat key) ≤ 768) :
    exec (.decblk k) s = .next (s.decryptedAppended k.toNat key).accepted := by
  have hbody := decryptBlock_key (s := s.accepted.setBusy true) (rawLen_eq_of_toNat hlen) hkey (keyOf_modulus hkey)
  exact command_completes hs (decide_eq_true hk) (by simp) hs.1 (hbody.trans (if_pos hfits))

theorem exec_decblk_full (hfull : 768 < s.dlen.toNat + byteLen s.config (blockPlain s.raw k.toNat key)) :
    exec (.decblk k) s = .next ((s.decrypted k.toNat key).stop .illegalCommand 0x1B#8 false) := by
  have hbody := decryptBlock_key (s := s.accepted.setBusy true) (rawLen_eq_of_toNat hlen) hkey (keyOf_modulus hkey)
  exact command_stops_in hs (decide_eq_true hk) (by simp) (hbody.trans (if_neg (Nat.not_le.mpr hfull)))

end Decblk

/-- Settles O32: one clause for each outcome of the body (`decryptBlock_key` and its two companions). -/
theorem decblkDecryptsBlock : Obligations.DecblkDecryptsBlock :=
  ⟨fun _ => decode_formatI rfl rfl rfl, fun _ _ hs hk =>
    ⟨exec_decblk_length hs hk, exec_decblk_no_version hs hk, fun _ hlen hkey =>
      ⟨exec_decblk_fits hs hk hlen hkey, exec_decblk_full hs hk hlen hkey⟩⟩⟩

/-! ### A list of blocks joined (R74, R149) -/

theorem decryptBlocks_raise {k : Nat} {ks : List Nat} {s t : State} {e : ErrorKind}
    (h : decryptBlock k s = .raise e t) : decryptBlocks (k :: ks) s = .raise e t := by
  rw [decryptBlocks, Body.andThen, h, Res.bind_raise]

/-- The state after some blocks went through DECBLK: the MEU registers hold the last of them, `k`, and all their results,
`bs`, stand in DBUF from the old DLEN on. -/
def State.joined (s : State) (k : Nat) (key : KeyParams) (bs : List Byte) : State :=
  { s.decrypted k key with
    dbuf := s.dbuf.writeRange s.dlen.toNat bs
    dlen := BitVec.ofNat 10 (s.dlen.toNat + bs.length) }

theorem State.toNat_joined_dlen {s : State} {bs : List Byte} (h : s.dlen.toNat + bs.length ≤ 768) (k : Nat)
    (key : KeyParams) : (s.joined k key bs).dlen.toNat = s.dlen.toNat + bs.length := by
  rw [State.joined, BitVec.toNat_ofNat, Nat.mod_eq_of_lt (by omega)]

/-- What is joined to the results of earlier blocks stands behind them. -/
theorem State.joined_joined {s : State} {bs : List Byte} (h : s.dlen.toNat + bs.length ≤ 768) (k k' : Nat)
    (key key' : KeyParams) (bs' : List Byte) :
    (s.joined k key bs).joined k' key' bs' = s.joined k' key' (bs ++ bs') := by
  rw [State.joined, State.toNat_joined_dlen h, State.joined, State.joined, Memory.writeRange_append, List.length_append,
    ← Nat.add_assoc]
  rfl

/-- One block is joined by DECBLK. -/
theorem decryptBlock_joined {s : State} {k : Nat} {key : KeyParams} (hlen : s.rawLen = 720#16)
    (hkey : keyOf s.config s.ver (classOfBlock k) = some key)
    (hfits : s.dlen.toNat + (naturalBytes s.config (blockPlain s.raw k key)).length ≤ 768) :
    decryptBlock k s = .ok () (s.joined k key (naturalBytes s.config (blockPlain s.raw k key))) := by
  rw [length_naturalBytes] at hfits
  rw [decryptBlock_key hlen hkey (keyOf_modulus hkey), if_pos hfits, State.joined, length_naturalBytes,
    State.decryptedAppended]

/-- The results of some blocks in order without padding, each block under its own key. -/
def joinedPlain (c : Config) (raw : Memory 8) (keys : Nat → KeyParams) (ks : List Nat) : List Byte :=
  ks.flatMap fun k => naturalBytes c (blockPlain raw k (keys k))

theorem joinedPlain_cons (c : Config) (raw : Memory 8) (keys : Nat → KeyParams) (k : Nat) (ks : List Nat) :
    joinedPlain c raw keys (k :: ks) = naturalBytes c (blockPlain raw k (keys k)) ++ joinedPlain c raw keys ks :=
  rfl

/-- Blocks whose results fit are joined by one DECBLK after another. -/
theorem decryptBlocks_joined {keys : Nat → KeyParams} {s : State} {k : Nat} {ks : List Nat} (hlen : s.rawLen = 720#16)
    (hkeys : ∀ j, keyOf s.config s.ver (classOfBlock j) = some (keys j))
    (hfits : s.dlen.toNat + (joinedPlain s.config s.raw keys (k :: ks)).length ≤ 768) :
    decryptBlocks (k :: ks) s =
      .ok () (s.joined (ks.getLastD k) (keys (ks.getLastD k)) (joinedPlain s.config s.raw keys (k :: ks))) := by
  induction ks generalizing s k with
  | nil =>
    rw [joinedPlain_cons, joinedPlain, List.flatMap_nil, List.append_nil] at hfits ⊢
    rw [decryptBlocks, Body.andThen, decryptBlock_joined hlen (hkeys k) hfits, Res.bind_ok]
    rfl
  | cons k' ks ih =>
    rw [joinedPlain_cons] at hfits ⊢
    rw [List.length_append] at hfits
    have hfirst : s.dlen.toNat + (naturalBytes s.config (blockPlain s.raw k (keys k))).length ≤ 768 := by omega
    have hrest := ih (s := s.joined k (keys k) (naturalBytes s.config (blockPlain s.raw k (keys k)))) (k := k') hlen hkeys
      (by rw [State.toNat_joined_dlen hfirst, Nat.add_assoc]; exact hfits)
    rw [decryptBlocks, Body.andThen, decryptBlock_joined hlen (hkeys k) hfirst, Res.bind_ok, hrest,
      State.joined_joined hfirst, List.getLastD_cons]
    rfl

/-! ### The joined buffer (R74) -/

/-- The key of each block, by its class (R135). -/
def blockKey (large trail : KeyParams) (k : Nat) : KeyParams := if k ≤ 4 then large else trail

theorem keyOf_blockKey {c : Config} {v : Version} {large trail : KeyParams} (hlarge : keyOf c v .large = some large)
    (htrail : keyOf c v .trail = some trail) (k : Nat) : keyOf c v (classOfBlock k) = some (blockKey large trail k) := by
  unfold classOfBlock blockKey
  split
  · exact hlarge
  · exact htrail

theorem joinedPlain_blockKey (c : Config) (raw : Memory 8) (large trail : KeyParams) :
    joinedPlain c raw (blockKey large trail) [0, 1, 2, 3, 4, 5] = plainBuffer c raw large trail := by
  simp [joinedPlain, blockKey, plainBuffer]

theorem length_plainBuffer (c : Config) (raw : Memory 8) (large trail : KeyParams) :
    (plainBuffer c raw large trail).length =
      byteLen c (blockPlain raw 0 large) + byteLen c (blockPlain raw 1 large) + byteLen c (blockPlain raw 2 large) +
        byteLen c (blockPlain raw 3 large) + byteLen c (blockPlain raw 4 large) + byteLen c (blockPlain raw 5 trail) := by
  simp only [plainBuffer, List.length_append, length_naturalBytes]

theorem zeroResultLen_le_byteLen (c : Config) (v : Nat) : c.zeroResultLen.val ≤ byteLen c v := by
  have hzero := c.zeroResultLen.isLt
  unfold byteLen
  split <;> omega

theorem byteLen_blockPlain_le (c : Config) (raw : Memory 8) (k : Nat) {key : KeyParams} (h : key.n ≠ 0) :
    byteLen c (blockPlain raw k key) ≤ 128 :=
  byteLen_le_128 ((blockPlain_lt h).trans key.n.isLt)

/-- A result below a modulus of at most 592 bits has at most 74 bytes. -/
theorem byteLen_blockPlain_le_74 (c : Config) (raw : Memory 8) (k : Nat) {key : KeyParams} (h : key.n ≠ 0)
    (hsmall : key.n.toNat ≤ 2 ^ 592) : byteLen c (blockPlain raw k key) ≤ 74 := by
  have hpow : (256 : Nat) ^ 74 = 2 ^ 592 := by norm_num
  exact byteLen_le (by decide) (hpow ▸ (blockPlain_lt h).trans_le hsmall)

section Bounds

variable (c : Config) (raw : Memory 8) {large trail : KeyParams}

theorem le_length_plainBuffer : 6 * c.zeroResultLen.val ≤ (plainBuffer c raw large trail).length := by
  have hlarge := fun k => zeroResultLen_le_byteLen c (blockPlain raw k large)
  have htrail := zeroResultLen_le_byteLen c (blockPlain raw 5 trail)
  rw [length_plainBuffer]
  linarith [hlarge 0, hlarge 1, hlarge 2, hlarge 3, hlarge 4]

/-- Five results of a LARGE key and one of at most `b` bytes. -/
theorem length_plainBuffer_le {b : Nat} (hn : large.n ≠ 0) (hb : byteLen c (blockPlain raw 5 trail) ≤ b) :
    (plainBuffer c raw large trail).length ≤ 640 + b := by
  have hlarge := fun k => byteLen_blockPlain_le c raw k hn
  rw [length_plainBuffer]
  linarith [hlarge 0, hlarge 1, hlarge 2, hlarge 3, hlarge 4]

end Bounds

/-! ### ASSEMBLE (R149) -/

theorem assemble_length {s : State} (h : s.rawLen.toNat ≠ 720) :
    assemble s = .raise .insufficientBytes s.clearBuffer :=
  decryptBlocks_raise (decryptBlock_length (s := s.clearBuffer) (rawLen_ne_of_toNat h))

theorem assemble_no_version {s : State} (hlen : s.rawLen.toNat = 720) (hver : s.ver = .none) :
    assemble s =
      .raise .configError { s.clearBuffer with mx := BitVec.ofNat 1024 (blockValue s.raw 0) } :=
  decryptBlocks_raise (decryptBlock_no_version (s := s.clearBuffer) (rawLen_eq_of_toNat hlen) hver)

/-- ASSEMBLE with a whole input and a version: the six results fit, and block 5 is the last. -/
theorem assemble_ok {s : State} {large trail : KeyParams} (hlen : s.rawLen.toNat = 720)
    (hlarge : keyOf s.config s.ver .large = some large) (htrail : keyOf s.config s.ver .trail = some trail) :
    assemble s = .ok () (s.clearBuffer.joined 5 trail (plainBuffer s.config s.raw large trail)) := by
  have hbuffer := length_plainBuffer_le s.config s.raw (keyOf_modulus hlarge)
    (byteLen_blockPlain_le s.config s.raw 5 (keyOf_modulus htrail))
  rw [← joinedPlain_blockKey] at hbuffer ⊢
  exact decryptBlocks_joined (s := s.clearBuffer) (rawLen_eq_of_toNat hlen) (keyOf_blockKey hlarge htrail)
    (by simpa using hbuffer)

theorem exec_assemble_ok {s : State} {large trail : KeyParams} (hs : s.Ready) (hlen : s.rawLen.toNat = 720)
    (hlarge : keyOf s.config s.ver .large = some large) (htrail : keyOf s.config s.ver .trail = some trail) :
    exec .assemble s =
      .next (s.clearBuffer.joined 5 trail (plainBuffer s.config s.raw large trail)).accepted :=
  command_completes hs rfl (by decide) hs.1 (assemble_ok (s := s.accepted.setBusy true) hlen hlarge htrail)

/-- Settles O33: the outcomes of ASSEMBLE's body, and the bounds on the joined buffer. -/
theorem assembleJoinsBlocks : Obligations.AssembleJoinsBlocks := by
  refine ⟨decodeInvertsEncode .assemble, fun s hs => ⟨rfl, fun hlen => ?_, fun hlen hver => ?_,
    fun large trail hlen hlarge htrail => ⟨?_, ?_, fun hsmall => ?_, ?_, fun hwf => ?_⟩⟩⟩
  · exact command_stops_in hs rfl (by decide) (assemble_length hlen)
  · exact command_stops_in hs rfl (by decide) (assemble_no_version hlen hver)
  · exact length_plainBuffer_le s.config s.raw (keyOf_modulus hlarge)
      (byteLen_blockPlain_le s.config s.raw 5 (keyOf_modulus htrail))
  · exact le_length_plainBuffer s.config s.raw
  · exact length_plainBuffer_le s.config s.raw (keyOf_modulus hlarge)
      (byteLen_blockPlain_le_74 s.config s.raw 5 (keyOf_modulus htrail) hsmall)
  · rw [exec_assemble_ok hs hlen hlarge htrail]
    simp [State.joined, State.decrypted, State.accepted]
  · exact Memory.readRange_writeRange hwf 0 (plainBuffer s.config s.raw large trail)

end Sys2Proof.Machine
end

section
/-! PROOFS. SEEK, RDRAW, RDDEC2, SKIP and NQLOAD (42_fieldscan.md): what each body does on each of its inputs, and the
commands around the bodies. -/

namespace Sys2Proof.Machine

/-! ### The cursor and the slots (R22, R160) -/

@[simp] theorem State.advance_zero (s : State) : s.advance 0 = s := by simp [State.advance]

theorem State.advance_advance (s : State) (a b : Nat) : (s.advance a).advance b = s.advance (a + b) := by
  have hcur : BitVec.ofNat 10 ((BitVec.ofNat 10 (s.cur.toNat + a)).toNat + b) = BitVec.ofNat 10 (s.cur.toNat + (a + b)) := by
    apply BitVec.eq_of_toNat_eq
    simp only [BitVec.toNat_ofNat]
    omega
  simp only [State.advance, hcur]

/-- Writing the slot an operand names: every 5-bit slot number is in range (R102). -/
theorem State.setSlot_operand (s : State) (rd : BitVec 5) (v : Slot) :
    s.setSlot rd.toNat v = { s with slots := s.slots.set rd.toNat v } := by
  rw [State.setSlot, setIfInBounds_slot]

/-! ### SEEK (R162, R163) -/

theorem Memory.getElem?_readRange {w : Nat} (m : Memory w) (a : Nat) {n i : Nat} (h : i < n) :
    (m.readRange a n)[i]? = some (m.read (a + i)) := by
  rw [List.getElem?_eq_getElem (by rwa [m.length_readRange]), m.getElem_readRange]

/-- The search reads DBUF itself. -/
theorem State.getElem?_searched {s : State} {i : Nat} (h : i < s.dlen.toNat) :
    (s.dbuf.readRange 0 s.dlen.toNat)[i]? = some (s.dbuf.read i) := by
  rw [Memory.getElem?_readRange _ _ h, Nat.zero_add]

theorem seek_first {s : State} {p : Nat} (hp : p + 2 ≤ s.dlen.toNat) (hmarker : s.dbuf.read p = s.config.marker)
    (hleast : ∀ q < p, s.dbuf.read q ≠ s.config.marker) : seek s = .ok () { s with cur := BitVec.ofNat 10 (p + 2) } := by
  have hfound : indexOf s.config.marker (s.dbuf.readRange 0 s.dlen.toNat) = some p := by
    refine indexOf_eq ?_ fun q hq => ?_
    · rw [State.getElem?_searched (by omega), hmarker]
    · rw [State.getElem?_searched (by omega)]
      simpa using hleast q hq
  rw [seek, hfound]
  exact if_neg (Nat.not_lt.mpr hp)

theorem seek_none {s : State} (h : ∀ q, q + 2 ≤ s.dlen.toNat → s.dbuf.read q ≠ s.config.marker) :
    seek s = .raise .malformedField s := by
  unfold seek
  split
  · rfl
  · next p hp =>
    obtain ⟨hmarker, -⟩ := indexOf_some hp
    refine if_pos (Nat.lt_of_not_le fun hfits => h p hfits ?_)
    rw [State.getElem?_searched (by omega)] at hmarker
    exact Option.some.inj hmarker

/-- Settles O34: SEEK finds the least index of the marker (`indexOf_eq`, `indexOf_some`). -/
theorem seekFindsFirstMarker : Obligations.SeekFindsFirstMarker :=
  ⟨decodeInvertsEncode .seek, fun _ hs =>
    ⟨fun _ hp hmarker hleast => command_completes hs rfl (by decide) hs.1 (seek_first hp hmarker hleast),
      fun hnone => command_stops hs rfl (by decide) (seek_none hnone)⟩⟩

/-! ### RDRAW (R172) -/

theorem rdraw_ok {s : State} {rd : BitVec 5} {n : Nat} (h : s.cur.toNat + n ≤ s.dlen.toNat) :
    rdraw rd.toNat n s = .ok () { s with
      slots := s.slots.set rd.toNat (some (s.dbuf.readRange s.cur.toNat n))
      cur := BitVec.ofNat 10 (s.cur.toNat + n) } := by
  rw [rdraw, if_neg (Nat.not_lt.mpr h), State.setSlot_operand]
  rfl

theorem rdraw_raise {s : State} {rd n : Nat} (h : s.dlen.toNat < s.cur.toNat + n) :
    rdraw rd n s = .raise .malformedField s := if_pos h

/-- Settles O38: the body's bounds check and its copy. -/
theorem rdrawCopiesBytes : Obligations.RdrawCopiesBytes :=
  ⟨fun rd n => decodeInvertsEncode (.rdraw rd n), fun _ _ _ hs =>
    ⟨fun hfits => command_completes hs rfl (by simp) hs.1 (rdraw_ok hfits),
      fun hshort => command_stops hs rfl (by simp) (rdraw_raise hshort)⟩⟩

/-! ### RDDEC2 (R174) -/

theorem rddec2_digits {s : State} {rd : BitVec 5} (h : s.cur.toNat < s.dlen.toNat)
    (hb : (s.dbuf.read s.cur.toNat).toNat < 100) :
    rddec2 rd.toNat s = .ok () { s with
      slots := s.slots.set rd.toNat (some (twoDigits (s.dbuf.read s.cur.toNat)))
      cur := BitVec.ofNat 10 (s.cur.toNat + 1) } := by
  rw [rddec2, if_pos h]
  dsimp only
  rw [if_neg (Nat.not_le.mpr hb), State.setSlot_operand]
  rfl

theorem rddec2_large {s : State} {rd : Nat} (h : s.cur.toNat < s.dlen.toNat)
    (hb : 100 ≤ (s.dbuf.read s.cur.toNat).toNat) : rddec2 rd s = .raise .unspecified (s.advance 1) := by
  rw [rddec2, if_pos h]
  exact if_pos hb

theorem rddec2_end {s : State} {rd : Nat} (h : s.cur = s.dlen) : rddec2 rd s = .raise .malformedField s :=
  if_neg (by simp [h])

/-- Settles O39: the three outcomes of the body. -/
theorem rddec2RendersDigits : Obligations.Rddec2RendersDigits := by
  refine ⟨fun rd => decodeInvertsEncode (.rddec2 rd), fun s rd hs => ⟨fun hend => ?_, fun hlt hb => ?_, fun hlt hb => ?_⟩⟩
  · exact command_stops hs rfl (by simp) (rddec2_end hend)
  · exact command_completes hs rfl (by simp) hs.1 (rddec2_digits hlt hb)
  · exact command_stops_in hs rfl (by simp) (rddec2_large hlt hb)

/-! ### SKIP (R175) -/

theorem skip_ok {s : State} {n : Nat} (h : s.cur.toNat + n ≤ s.dlen.toNat) : skip n s = .ok () (s.advance n) :=
  if_neg (Nat.not_lt.mpr h)

theorem skip_raise {s : State} {n : Nat} (h : s.dlen.toNat < s.cur.toNat + n) : skip n s = .raise .malformedField s :=
  if_pos h

/-- Settles O40: the body's bounds check and its advance. -/
theorem skipAdvances : Obligations.SkipAdvances :=
  ⟨fun _ => decode_formatI rfl rfl rfl, fun _ _ hs =>
    ⟨fun hfits => command_completes hs rfl (by simp) hs.1 (skip_ok hfits),
      fun hshort => command_stops hs rfl (by simp) (skip_raise hshort)⟩⟩

/-! ### NQLOAD (R176, R177) -/

theorem nqload_found {s : State} {pre rest : List Byte} (hpre : s.config.term ∉ pre)
    (h : s.remaining = pre ++ s.config.term :: rest) :
    nqload s = .ok () ((s.loadQueue pre).advance (pre.length + if s.config.termConsumed = true then 1 else 0)) := by
  simp only [nqload, h, splitAtTerm_found hpre, if_true]
  split
  · rw [State.advance_advance]
  · rfl

theorem nqload_missing {s : State} (h : s.config.term ∉ s.remaining) :
    nqload s = .raise .malformedField ((s.loadQueue s.remaining).advance s.remaining.length) := by
  simp only [nqload, splitAtTerm_none h, Bool.false_eq_true, if_false]

theorem Memory.readRange_writeRange_nibblesOf {m : Memory 4} (h : m.wf = true) (bs : List Byte) :
    (m.writeRange 0 (nibblesOf bs)).readRange 0 (2 * bs.length) = nibblesOf bs := by
  have hread := Memory.readRange_writeRange h 0 (nibblesOf bs)
  rwa [length_nibblesOf] at hread

/-- The queue loaded from bytes that fit DBUF: NQT does not wrap. -/
theorem State.queue_loadQueue {s : State} (hwf : s.nq.wf = true) {bs : List Byte} (hbs : bs.length < 1024) :
    (s.loadQueue bs).queue = nibblesOf bs := by
  have hnqt : (BitVec.ofNat 11 (2 * bs.length)).toNat = 2 * bs.length := by
    rw [BitVec.toNat_ofNat, Nat.mod_eq_of_lt (by omega)]
  rw [State.queue, State.loadQueue_nqt, hnqt]
  exact Memory.readRange_writeRange_nibblesOf hwf bs

/-- NQLOAD with a terminator ahead. -/
theorem exec_nqload_found {s : State} {pre rest : List Byte} (hs : s.Ready) (hpre : s.config.term ∉ pre)
    (hrem : s.remaining = pre ++ s.config.term :: rest) :
    exec .nqload s = .next
      ((s.loadQueue pre).advance (pre.length + if s.config.termConsumed = true then 1 else 0)).accepted :=
  command_completes hs rfl (by decide) hs.1 (nqload_found (s := s.accepted.setBusy true) hpre hrem)

/-- Settles O41: the two outcomes of the body, and the queue read back (`State.queue_loadQueue`). -/
theorem nqloadFillsQueue : Obligations.NqloadFillsQueue := by
  refine ⟨decodeInvertsEncode .nqload, fun s hs hwf => ⟨fun pre rest hpre hrem => ?_, fun hterm => ?_⟩⟩
  · have hlen := congrArg List.length hrem
    rw [State.length_remaining, List.length_append, List.length_cons] at hlen
    refine ⟨_, exec_nqload_found hs hpre hrem, ?_, ?_, fun a ha => ?_⟩
    · simp [State.loadQueue, State.advance, State.accepted, Nat.add_assoc]
    · exact (State.queue_loadQueue hwf (by omega)).trans (nibblesOf_eq_flatMap pre)
    · exact Memory.read_writeRange_ne (.inr (by simpa using ha))
  · refine ⟨_, command_stops_in hs rfl (by decide) (nqload_missing hterm), ?_⟩
    rw [← nibblesOf_eq_flatMap]
    exact Memory.readRange_writeRange_nibblesOf hwf s.remaining

end Sys2Proof.Machine
end

section
/-! PROOFS. RDSTR, RDOPT and RDSTRS (42_fieldscan.md): one string, one more string when it is signalled, and a list of
strings packed into consecutive slots. -/

namespace Sys2Proof.Machine

/-! ### RDSTR (R168) -/

theorem rdstr_field {s : State} {f : Field} {rest : List Byte} (rd : BitVec 5) (hf : fieldOk s.config f = true)
    (h : s.remaining = fieldBytes f ++ rest) :
    rdstr rd.toNat s = .ok () { s with
      slots := s.slots.set rd.toNat (some f.1), cur := BitVec.ofNat 10 (s.cur.toNat + f.1.length + 1)
      lastDelim := f.2, ldValid := true } := by
  rw [rdstr, scanString_field h hf]
  dsimp only
  rw [State.setSlot_operand]
  rfl

theorem rdstr_end {s : State} (rd : Nat) (h : ∀ b ∈ s.remaining, isDelim s.config b = false) :
    rdstr rd s = .raise .malformedField (s.advance s.remaining.length) := by
  rw [rdstr, scanString_end h]
  rfl

/-- Settles O36: the two outcomes of the scan. -/
theorem rdstrReadsOne : Obligations.RdstrReadsOne :=
  ⟨fun rd => decodeInvertsEncode (.rdstr rd), fun _ rd hs =>
    ⟨fun _ _ hf hrem => command_completes hs rfl (by simp) hs.1 (rdstr_field rd hf hrem),
      fun hnone => command_stops_in hs rfl (by simp) (rdstr_end _ hnone)⟩⟩

/-! ### RDOPT (R170) -/

theorem State.extraFollows_iff (s : State) :
    s.extraFollows = true ↔ s.ldValid = true ∧ s.lastDelim = extraDelimByte s.config := by
  rw [State.extraFollows, Bool.and_eq_true, beq_iff_eq]

theorem rdopt_signalled {s : State} (rd : Nat) (hvalid : s.ldValid = true) (hlast : s.lastDelim = extraDelimByte s.config) :
    rdopt rd s = rdstr rd s :=
  if_pos (s.extraFollows_iff.mpr ⟨hvalid, hlast⟩)

theorem rdopt_unsignalled {s : State} (rd : BitVec 5) (h : s.ldValid = false ∨ s.lastDelim ≠ extraDelimByte s.config) :
    rdopt rd.toNat s = .ok () { s with slots := s.slots.set rd.toNat none } := by
  have hno : ¬s.extraFollows = true := by
    rw [s.extraFollows_iff, not_and_or, Bool.not_eq_true]
    exact h
  rw [rdopt, if_neg hno, State.setSlot_operand]

/-- Settles O37: signalled, RDOPT's body is RDSTR's (`rdopt_signalled`). -/
theorem rdoptReadsWhenSignalled : Obligations.RdoptReadsWhenSignalled := by
  refine ⟨fun rd => decodeInvertsEncode (.rdopt rd), fun s rd hs => ⟨fun hvalid hlast => ?_, fun hno => ?_⟩⟩
  · have hbody := rdopt_signalled (s := s.accepted.setBusy true) rd.toNat hvalid hlast
    exact ⟨fun _ _ hf hrem => command_completes hs rfl (by simp) hs.1 (hbody.trans (rdstr_field rd hf hrem)),
      fun hnone => command_stops_in hs rfl (by simp) (hbody.trans (rdstr_end _ hnone))⟩
  · exact command_completes hs rfl (by simp) hs.1 (rdopt_unsignalled rd hno)

/-! ### RDSTRS (R166, R167) -/

/-- The strings RDSTRS keeps of some fields and the unterminated bytes after them. -/
def keptWith (fs : List Field) (acc : List Byte) : List (List Byte) := keptStrings fs ++ [acc].filter (· ≠ [])

theorem keptWith_nil (fs : List Field) : keptWith fs [] = keptStrings fs := by simp [keptWith]

theorem length_keptWith_le (fs : List Field) (acc : List Byte) : (keptWith fs acc).length ≤ fs.length + 1 := by
  have hkept := length_keptStrings_le fs
  have hlast : ([acc].filter (· ≠ [])).length ≤ 1 := List.length_filter_le _ _
  rw [keptWith, List.length_append]
  omega

theorem State.fillSlots_advance (s : State) (rd n : Nat) (vs : List (List Byte)) :
    (s.fillSlots rd vs).advance n = (s.advance n).fillSlots rd vs := by
  induction vs generalizing s rd with
  | nil => rfl
  | cons v vs ih => exact ih _ _

@[simp] theorem State.config_clearSlots (s : State) (rd n : Nat) : (s.clearSlots rd n).config = s.config := by
  rw [State.clearSlots_eq]

@[simp] theorem State.config_fillSlots (s : State) (rd : Nat) (vs : List (List Byte)) :
    (s.fillSlots rd vs).config = s.config := by
  rw [State.fillSlots_eq]

@[simp] theorem State.config_scanned (s : State) (fs : List Field) : (s.scanned fs).config = s.config := rfl

/-- A read attempt that meets the end of the buffer is the last one. -/
theorem readStrings_end {s : State} {acc : List Byte} (rd n k : Nat) (hrem : s.remaining = acc)
    (hacc : ∀ b ∈ acc, isDelim s.config b = false) :
    readStrings rd (n + 1) k s =
      (k + ([acc].filter (· ≠ [])).length, (s.advance acc.length).fillSlots (rd + k) ([acc].filter (· ≠ []))) := by
  subst hrem
  rw [readStrings, scanString_end hacc]
  by_cases hnil : s.remaining = []
  · simp [hnil, State.fillSlots]
  · simp [hnil, State.fillSlots]

/-- The state a list read leaves: the destination cleared and filled with the strings kept, the fields scanned, the
unterminated bytes passed. -/
def State.listRead (s : State) (rd count : Nat) (fs : List Field) (acc : List Byte) : State :=
  { (((s.clearSlots rd count).scanned fs).advance acc.length).fillSlots rd (keptWith fs acc) with
    lcnt := BitVec.ofNat 6 (keptWith fs acc).length }

theorem rdstrs_full {s : State} {fs : List Field} {rest : List Byte} (rd : Nat)
    (hf : ∀ f ∈ fs, fieldOk s.config f = true) (h : s.remaining = fs.flatMap fieldBytes ++ rest) :
    rdstrs rd fs.length s = .ok () (s.listRead rd fs.length fs []) := by
  have hread := readStrings_fields (s := s.clearSlots rd fs.length) rd 0 0 (by rwa [State.config_clearSlots])
    ((s.remaining_clearSlots _ _).trans h)
  simp only [Nat.add_zero, Nat.zero_add] at hread
  simp only [rdstrs, hread, readStrings, State.listRead, keptWith_nil, List.length_nil, State.advance_zero]

theorem rdstrs_rest {s : State} {fs : List Field} {acc : List Byte} {count : Nat} (rd : Nat)
    (hf : ∀ f ∈ fs, fieldOk s.config f = true) (hcount : fs.length < count)
    (hacc : ∀ b ∈ acc, isDelim s.config b = false) (h : s.remaining = fs.flatMap fieldBytes ++ acc) :
    rdstrs rd count s = .ok () (s.listRead rd count fs acc) := by
  obtain ⟨n, rfl⟩ : ∃ n, count = fs.length + (n + 1) := ⟨count - fs.length - 1, by omega⟩
  have hrem := (s.remaining_clearSlots rd (fs.length + (n + 1))).trans h
  have hread := readStrings_fields rd 0 (n + 1) (by rwa [State.config_clearSlots]) hrem
  rw [readStrings_end (acc := acc) _ _ _ (by rw [State.remaining_fillSlots, State.remaining_scanned hrem])
    (by simpa using hacc)] at hread
  simp only [rdstrs, hread, State.listRead, keptWith, State.fillSlots_advance, State.fillSlots_append, List.length_append,
    Nat.zero_add, Nat.add_zero]

theorem State.listRead_eq (s : State) (rd count : Nat) (fs : List Field) (acc : List Byte) :
    s.listRead rd count fs acc = { s with
      slots := (s.listRead rd count fs acc).slots
      cur := BitVec.ofNat 10 (s.cur.toNat + (fs.flatMap fieldBytes ++ acc).length)
      lastDelim := (fs.map Prod.snd).getLast?.getD s.lastDelim
      ldValid := s.ldValid || !fs.isEmpty
      lcnt := BitVec.ofNat 6 (keptWith fs acc).length } := by
  have hcur : ((s.scanned fs).advance acc.length).cur =
      BitVec.ofNat 10 (s.cur.toNat + (fs.flatMap fieldBytes ++ acc).length) := by
    rw [List.length_append]
    exact congrArg State.cur (s.advance_advance (fs.flatMap fieldBytes).length acc.length)
  rw [← hcur]
  dsimp only [State.listRead]
  rw [State.fillSlots_eq, State.clearSlots_eq]
  rfl

theorem State.slot_listRead {s : State} {rd count : Nat} {fs : List Field} {acc : List Byte} (hw : rd + count ≤ 32)
    (hkept : (keptWith fs acc).length ≤ count) (j : Nat) :
    (s.listRead rd count fs acc).slot j =
      if rd ≤ j ∧ j < rd + count then (keptWith fs acc)[j - rd]? else s.slot j := by
  have hslots : (s.listRead rd count fs acc).slots = ((s.clearSlots rd count).fillSlots rd (keptWith fs acc)).slots :=
    State.fillSlots_slots (s := ((s.clearSlots rd count).scanned fs).advance acc.length) (t := s.clearSlots rd count) rfl
      rd (keptWith fs acc)
  exact State.slot_clear_fill hkept hw hslots j

/-- RDSTRS around a list read. -/
theorem exec_rdstrs_listRead {s : State} {rd : BitVec 5} {count : BitVec 16} {fs : List Field} {acc : List Byte}
    (hs : s.Ready) (hw : rd.toNat + count.toNat ≤ 32) (hkept : (keptWith fs acc).length ≤ count.toNat)
    (hbody : rdstrs rd.toNat count.toNat (s.accepted.setBusy true) =
      .ok () ((s.accepted.setBusy true).listRead rd.toNat count.toNat fs acc)) :
    ∃ t, exec (.rdstrs rd count) s = .next t ∧
      t = { s with
        slots := t.slots, cur := BitVec.ofNat 10 (s.cur.toNat + (fs.flatMap fieldBytes ++ acc).length)
        lastDelim := (fs.map Prod.snd).getLast?.getD s.lastDelim, ldValid := s.ldValid || !fs.isEmpty
        lcnt := BitVec.ofNat 6 (keptWith fs acc).length, recValid := false } ∧
      ∀ j, t.slot j =
        if rd.toNat ≤ j ∧ j < rd.toNat + count.toNat then (keptWith fs acc)[j - rd.toNat]? else s.slot j := by
  refine ⟨_, command_ok hs (decide_eq_true hw) (by simp) hbody, ?_,
    State.slot_listRead (s := s.accepted.setBusy true) hw hkept⟩
  rw [State.listRead_eq, hs.1]
  rfl

/-- Settles O35: the list read after the last attempt, or at the end of the buffer. -/
theorem rdstrsReadsList : Obligations.RdstrsReadsList := by
  refine ⟨fun rd count => decodeInvertsEncode (.rdstrs rd count), fun s rd count fs hs hw hf =>
    ⟨fun rest hcount hrem => ?_, fun acc hcount hacc hrem => ?_⟩⟩
  · have hkept := length_keptStrings_le fs
    have hbody := rdstrs_full (s := s.accepted.setBusy true) rd.toNat hf hrem
    rw [hcount] at hkept hbody
    rw [← keptWith_nil] at hkept
    have hread := exec_rdstrs_listRead hs hw hkept hbody
    rwa [List.append_nil, keptWith_nil] at hread
  · have hkept : (keptWith fs acc).length ≤ count.toNat := (length_keptWith_le fs acc).trans hcount
    rw [hrem]
    exact exec_rdstrs_listRead hs hw hkept (rdstrs_rest rd.toNat hf hcount hacc hrem)

end Sys2Proof.Machine
end

section
/-! PROOFS. Frame of the field scanner's commands (R31 to R33, R160, R178). -/

namespace Sys2Proof.Machine

/-- Settles O54: each body's own frame equation; acceptance and the stop write none of these registers
(`exec_body_cases`). -/
theorem scannerFrame : Obligations.ScannerFrame := by
  intro i s t hscan h
  have hclr : i ≠ .clr := by rintro rfl; cases hscan
  have hrun : i ≠ .run := by rintro rfl; cases hscan
  obtain ⟨r, rfl | rfl, e, w, v, c, b, rfl⟩ := exec_body_cases hclr hrun h
  · simp
  · clear h
    cases i <;> dsimp only [bodyOf]
    case nop | clr | run | chklen | verdet | ldkey | ldblk | modexp | append | decblk | assemble => cases hscan
    case dateg | datel | code | gender => cases hscan
    case seek => rw [seek_state]; simp
    case rdstrs => rw [rdstrs_state]; simp
    case rdstr => rw [rdstr_state]; simp
    case rdopt => rw [rdopt_state]; simp
    case rdraw => rw [rdraw_state]; simp
    case rddec2 => rw [rddec2_state]; simp
    case skip => rw [skip_state]; simp
    case nqload => rw [nqload_state]; simp

end Sys2Proof.Machine
end

section
/-! PROOFS. DATEG, CODE and GENDER (43_nibble.md): what each body does on each of its inputs, and the commands around the
bodies. -/

namespace Sys2Proof.Machine

/-! ### DATEG (R192, R193) -/

theorem dateg_ok {s t : State} {g : Slot} (rd : BitVec 5) (h : dateGroup s = .ok g t) :
    dateg rd.toNat s = .ok () { t with slots := t.slots.set rd.toNat g } := by
  rw [dateg, h, Res.bind_ok, State.setSlot_operand]

theorem dateg_raise {s t : State} {k : ErrorKind} (rd : Nat) (h : dateGroup s = .raise k t) :
    dateg rd s = .raise k t := by
  rw [dateg, h, Res.bind_raise]

/-- Settles O42: the four outcomes of reading a group. -/
theorem dategReadsGroup : Obligations.DategReadsGroup := by
  refine ⟨fun rd => decodeInvertsEncode (.dateg rd), fun s rd hs =>
    ⟨fun rest hq => ?_, fun d0 d1 d2 d3 d4 d5 d6 d7 rest hq hd => ?_, fun hhead hlen => ?_,
      fun ds rest hq hlen hhead hbad => ?_⟩⟩
  · exact command_completes hs rfl (by simp) hs.1 (dateg_ok rd (dateGroup_absent (s := s.accepted.setBusy true) hq))
  · exact command_completes hs rfl (by simp) hs.1
      (dateg_ok rd (dateGroup_present (s := s.accepted.setBusy true) hq rfl hd))
  · exact command_stops_in hs rfl (by simp) (dateg_raise _ (dateGroup_short hhead hlen))
  · exact command_stops_in hs rfl (by simp) (dateg_raise _ (dateGroup_bad hq hlen hhead hbad))

/-! ### CODE (R192, R196) -/

section Code

variable {s : State} {ds rest : List Nibble} {width : Nat}

theorem code_digits (rd : BitVec 5) (hq : s.queue = ds ++ rest) (hlen : ds.length = width) (hd : ∀ d ∈ ds, d.toNat ≤ 9) :
    code rd.toNat width s = .ok () { s.popped width with slots := s.slots.set rd.toNat (some (ds.map digitByte)) } := by
  subst hlen
  rw [code, popMany_ok hq, Res.bind_ok, digitChars_ok hd]
  exact congrArg (Res.ok ()) (State.setSlot_operand _ rd _)

theorem code_bad (rd : Nat) (hq : s.queue = ds ++ rest) (hlen : ds.length = width) (hbad : ∃ d ∈ ds, 9 < d.toNat) :
    code rd width s = .raise .unspecified (s.popped width) := by
  subst hlen
  rw [code, popMany_ok hq, Res.bind_ok, digitChars_none hbad]

theorem code_short (rd : Nat) (h : s.queue.length < width) :
    code rd width s = .raise .malformedField (s.popped s.queue.length) := by
  rw [code, popMany_short h, Res.bind_raise]

end Code

/-- Settles O44: the three outcomes of the body. -/
theorem codeRendersDigits : Obligations.CodeRendersDigits := by
  refine ⟨fun rd width => decodeInvertsEncode (.code rd width), fun s rd width hs hwidth =>
    ⟨fun ds rest hq hlen hd => ?_, fun ds rest hq hlen hbad => ?_, fun hshort => ?_⟩⟩
  · exact command_completes hs (decide_eq_true hwidth) (by simp) hs.1 (code_digits rd hq hlen hd)
  · exact command_stops_in hs (decide_eq_true hwidth) (by simp) (code_bad _ hq hlen hbad)
  · exact command_stops_in hs (decide_eq_true hwidth) (by simp) (code_short _ hshort)

/-! ### GENDER (R198) -/

section Gender

variable {s : State} {a b : Nibble} {rest : List Nibble}

theorem genderLabel_pair (a b : Nibble) : genderLabel [a, b] = if a = 0 ∧ b = 1 then 0x01#8 else 0x00#8 := by
  simp [genderLabel]

theorem popMany_two (hq : s.queue = a :: b :: rest) : popMany 2 s = .ok [a, b] (s.popped 2) :=
  popMany_ok (vs := [a, b]) hq

theorem gender_digits (rd : BitVec 5) (hq : s.queue = a :: b :: rest) (ha : a.toNat ≤ 9) (hb : b.toNat ≤ 9) :
    gender rd.toNat s = .ok () { s.popped 2 with
      slots := s.slots.set rd.toNat (some [if a = 0 ∧ b = 1 then 0x01#8 else 0x00#8]) } := by
  rw [gender, popMany_two hq, Res.bind_ok, digitChars_ok (by simp [ha, hb]), genderLabel_pair]
  exact congrArg (Res.ok ()) (State.setSlot_operand _ rd _)

theorem gender_bad (rd : Nat) (hq : s.queue = a :: b :: rest) (hbad : 9 < a.toNat ∨ 9 < b.toNat) :
    gender rd s = .raise .unspecified (s.popped 2) := by
  rw [gender, popMany_two hq, Res.bind_ok, digitChars_none (by simpa using hbad)]

theorem gender_short (rd : Nat) (h : s.queue.length < 2) :
    gender rd s = .raise .malformedField (s.popped s.queue.length) := by
  rw [gender, popMany_short h, Res.bind_raise]

end Gender

/-- Settles O45: the three outcomes of the body. -/
theorem genderMapsCode : Obligations.GenderMapsCode := by
  refine ⟨fun rd => decodeInvertsEncode (.gender rd), fun s rd hs =>
    ⟨fun a b rest hq ha hb => ?_, fun a b rest hq hbad => ?_, fun hshort => ?_⟩⟩
  · exact command_completes hs rfl (by simp) hs.1 (gender_digits rd hq ha hb)
  · exact command_stops_in hs rfl (by simp) (gender_bad _ hq hbad)
  · exact command_stops_in hs rfl (by simp) (gender_short _ hshort)

end Sys2Proof.Machine
end

section
/-! PROOFS. DATEL (43_nibble.md): the groups read one by one, their present dates packed into consecutive slots. -/

namespace Sys2Proof.Machine

/-! ### All groups decode (R195) -/

/-- The dates of the present groups, in reading order (R195). -/
def presentDates (gs : List (Option (List Nibble))) : List (List Byte) :=
  (gs.filterMap id).map fun ds => dateText (ds.map digitByte)

theorem length_presentDates_le (gs : List (Option (List Nibble))) : (presentDates gs).length ≤ gs.length :=
  (List.length_map _).trans_le (List.length_filterMap_le id gs)

/-- The state DATEL leaves: the destination cleared and filled with the present dates, the groups popped. -/
def State.datesRead (s : State) (rd : Nat) (gs : List (Option (List Nibble))) : State :=
  { ((s.clearSlots rd gs.length).popped (gs.flatMap groupNibbles).length).fillSlots rd (presentDates gs) with
    lcnt := BitVec.ofNat 6 (gs.filterMap id).length }

theorem datel_groups {s : State} {gs : List (Option (List Nibble))} {rest : List Nibble} (rd : Nat)
    (hg : ∀ g ∈ gs, groupOk g = true) (hq : s.queue = gs.flatMap groupNibbles ++ rest) :
    datel rd gs.length s = .ok () (s.datesRead rd gs) := by
  have hread := readDates_groups (s := s.clearSlots rd gs.length) rd 0 0 hg ((s.queue_clearSlots _ _).trans hq)
  simp only [Nat.add_zero, Nat.zero_add] at hread
  rw [datel, hread, readDates, Res.bind_ok, State.datesRead, presentDates]

theorem State.datesRead_eq (s : State) (rd : Nat) (gs : List (Option (List Nibble))) :
    s.datesRead rd gs = { s with
      slots := (s.datesRead rd gs).slots
      nqh := BitVec.ofNat 11 (s.nqh.toNat + (gs.flatMap groupNibbles).length)
      lcnt := BitVec.ofNat 6 (gs.filterMap id).length } := by
  dsimp only [State.datesRead]
  rw [State.fillSlots_eq, State.clearSlots_eq]
  rfl

theorem State.slot_datesRead {s : State} {rd : Nat} {gs : List (Option (List Nibble))} (hw : rd + gs.length ≤ 32)
    (j : Nat) :
    (s.datesRead rd gs).slot j =
      if rd ≤ j ∧ j < rd + gs.length then (presentDates gs)[j - rd]? else s.slot j := by
  have hslots : (s.datesRead rd gs).slots = ((s.clearSlots rd gs.length).fillSlots rd (presentDates gs)).slots :=
    State.fillSlots_slots (s := (s.clearSlots rd gs.length).popped (gs.flatMap groupNibbles).length)
      (t := s.clearSlots rd gs.length) rfl rd (presentDates gs)
  exact State.slot_clear_fill (length_presentDates_le gs) hw hslots j

/-! ### A group that does not decode (R192, R193) -/

/-- Good groups, then one that raises. -/
theorem readDates_raise {s : State} {gs : List (Option (List Nibble))} {rest : List Nibble} {e : ErrorKind} {n m : Nat}
    (rd k : Nat) (hg : ∀ g ∈ gs, groupOk g = true) (hq : s.queue = gs.flatMap groupNibbles ++ rest)
    (hn : gs.length < n) (hlast : ∀ t : State, t.queue = rest → dateGroup t = .raise e (t.popped m)) :
    ∃ u, readDates rd n k s = .raise e u ∧ u.nqh = (s.popped ((gs.flatMap groupNibbles).length + m)).nqh := by
  obtain ⟨n', rfl⟩ : ∃ n', n = gs.length + (n' + 1) := ⟨n - gs.length - 1, by omega⟩
  have hlen := congrArg List.length hq
  rw [State.length_queue, List.length_append] at hlen
  have hpop : s.nqh.toNat + (gs.flatMap groupNibbles).length < 2048 := by omega
  rw [readDates_groups rd k _ hg hq, readDates,
    hlast _ ((State.queue_fillSlots _ _ _).trans (State.queue_popped hq)), Res.bind_raise]
  refine ⟨_, rfl, ?_⟩
  rw [← State.popped_popped hpop, State.fillSlots_eq]
  rfl

theorem State.NibbleFrame.trans {s t u : State} (hst : s.NibbleFrame t) (htu : t.NibbleFrame u) : s.NibbleFrame u := by
  unfold State.NibbleFrame at *
  rw [htu, hst]

/-- DATEL's body around a group that raises: LCNT is not written. -/
theorem datel_raise {s : State} {gs : List (Option (List Nibble))} {rest : List Nibble} {e : ErrorKind} {n m : Nat}
    (rd : Nat) (hg : ∀ g ∈ gs, groupOk g = true) (hq : s.queue = gs.flatMap groupNibbles ++ rest) (hn : gs.length < n)
    (hlast : ∀ t : State, t.queue = rest → dateGroup t = .raise e (t.popped m)) :
    ∃ u, datel rd n s = .raise e u ∧ s.NibbleFrame u ∧
      u.nqh = (s.popped ((gs.flatMap groupNibbles).length + m)).nqh := by
  obtain ⟨u, hread, hnqh⟩ := readDates_raise rd 0 hg ((s.queue_clearSlots rd n).trans hq) hn hlast
  have hframe := readDates_nibbleFrame rd n 0 (s.clearSlots rd n)
  rw [hread] at hframe
  refine ⟨u, by rw [datel, hread, Res.bind_raise], (s.clearSlots_nibbleFrame rd n).trans hframe, ?_⟩
  rw [hnqh, State.clearSlots_eq]
  rfl

/-- The stop overwrites the slots (R236): of what the nibble decoder's bodies write, NQH alone is left. -/
theorem State.NibbleFrame.stop_eq {s t : State} {n : Nat} (h : s.NibbleFrame t) (hn : t.nqh = (s.popped n).nqh)
    (k : ErrorKind) (eop : Byte) (r : Bool) : t.stop k eop r = (s.popped n).stop k eop r := by
  rw [h, hn]
  rfl

/-! ### The command -/

/-- DATEL around a group that raises. -/
theorem exec_datel_raise {s : State} {rd : BitVec 5} {count : BitVec 16} {gs : List (Option (List Nibble))}
    {rest : List Nibble} {e : ErrorKind} {m : Nat} (hs : s.Ready) (hw : rd.toNat + count.toNat ≤ 32)
    (hg : ∀ g ∈ gs, groupOk g = true) (hq : s.queue = gs.flatMap groupNibbles ++ rest) (hcount : gs.length < count.toNat)
    (hlast : ∀ t : State, t.queue = rest → dateGroup t = .raise e (t.popped m)) :
    exec (.datel rd count) s = .next ((s.popped ((gs.flatMap groupNibbles).length + m)).stop e 0x31#8 false) := by
  obtain ⟨u, hbody, hframe, hnqh⟩ := datel_raise (s := s.accepted.setBusy true) rd.toNat hg hq hcount hlast
  calc exec (.datel rd count) s
    _ = .next (u.stop e 0x31#8 false) := command_raise hs (decide_eq_true hw) (by simp) hbody
    _ = _ := congrArg _ (hframe.stop_eq hnqh e 0x31#8 false)

/-- Settles O43: every group decodes (`datel_groups`), or the first that does not underflows or has a nibble above 9
(`exec_datel_raise`). -/
theorem datelReadsGroups : Obligations.DatelReadsGroups := by
  refine ⟨fun rd count => decodeInvertsEncode (.datel rd count), fun s rd count gs rest hs hw hg hq =>
    ⟨fun hcount => ?_, fun hcount hhead hlen => ?_, fun hcount hhead hlen hbad => ?_⟩⟩
  · have hbody := datel_groups (s := s.accepted.setBusy true) rd.toNat hg hq
    have hslot := State.slot_datesRead (s := s.accepted.setBusy true) (hcount ▸ hw)
    rw [hcount] at hbody hslot
    refine ⟨_, command_ok hs (decide_eq_true hw) (by simp) hbody, ?_, hslot⟩
    rw [State.datesRead_eq, hs.1]
    rfl
  · rw [hq, List.length_append]
    exact exec_datel_raise hs hw hg hq hcount fun t ht => by subst ht; exact dateGroup_short hhead hlen
  · rw [Nat.add_assoc]
    exact exec_datel_raise hs hw hg hq hcount fun t ht =>
      dateGroup_bad (rest := rest.drop 8) (ht.trans (List.take_append_drop 8 rest).symm)
        (List.length_take_of_le hlen) (by simpa [List.head?_take] using hhead) hbad

end Sys2Proof.Machine
end

section
/-! PROOFS. Frame of the nibble decoder's commands (R32, R33, R191). -/

namespace Sys2Proof.Machine

/-- Settles O55: each body's own frame equation; acceptance and the stop write none of these registers
(`exec_body_cases`). -/
theorem nibbleFrame : Obligations.NibbleFrame := by
  intro i s t hnibble h
  have hclr : i ≠ .clr := by rintro rfl; cases hnibble
  have hrun : i ≠ .run := by rintro rfl; cases hnibble
  obtain ⟨r, rfl | rfl, e, w, v, c, b, rfl⟩ := exec_body_cases hclr hrun h
  · simp
  · clear h
    cases i <;> dsimp only [bodyOf]
    case dateg => rw [dateg_state]; simp
    case datel => rw [datel_state]; simp
    case code => rw [code_state]; simp
    case gender => rw [gender_state]; simp
    all_goals cases hnibble

end Sys2Proof.Machine
end

section
/-! PROOFS. NOP and CLR (R211, R212), the microprogram's words (R215), and RUN's loop (R214): how it passes one
micro-command, its first two checks, and the two ways it ends. -/

namespace Sys2Proof.Machine

/-! ### NOP and CLR (R211, R212) -/

theorem State.dropRecord_nop (s : State) : s.dropRecord .nop = s := by simp [State.dropRecord]

/-- Settles O23: acceptance drops nothing for NOP and sets BUSY back. -/
theorem nopDoesNothing : Obligations.NopDoesNothing := by
  refine ⟨decodeInvertsEncode .nop, fun s => ?_⟩
  rw [exec_eq_accept, accept]
  split
  · rfl
  next hbusy =>
  split
  · rfl
  · rw [if_neg (by decide), State.dropRecord_nop]
    exact congrArg _ (State.setBusy_of_busy_eq (by simpa using hbusy))

/-- CLR runs with BUSY 0, whatever ERR is. -/
theorem exec_clr {s : State} (h : s.busy = false) : exec .clr s = .next s.clearAll := by
  rw [exec_eq_accept, accept, if_neg (by simp [h]), if_neg (by simp), if_neg (by decide)]
  rfl

/-- Settles O24: CLR gives the state after reset, whose registers `State.reset` lists. -/
theorem clrReturnsToReset : Obligations.ClrReturnsToReset :=
  ⟨decodeInvertsEncode .clr, fun s h => ⟨s.clearAll, exec_clr h, rfl, rfl⟩⟩

/-! ### The microprogram (R215) -/

/-- Settles O46: each word is the encoding of its row (R100). -/
theorem microprogramWords : Obligations.MicroprogramWords := rfl

/-! ### RUN's loop (R214) -/

theorem runMicros_ok {m : Micro} {s t : State} (ms : List Micro) (h : m.body s = .ok () t) :
    runMicros (m :: ms) s = runMicros ms t.nextMicro := by
  rw [runMicros, h]

theorem runMicros_raise {m : Micro} {s t : State} {k : ErrorKind} (ms : List Micro) (h : m.body s = .raise k t) :
    runMicros (m :: ms) s = t.stop k m.instr.opcode true := by
  rw [runMicros, h]

/-- RUN in a ready state, from where its loop ends. -/
theorem exec_run_ready {s t : State} (hs : s.Ready) (hrun : runAll (s.accepted.setBusy true) = t) :
    exec .run s = .next (t.setBusy false) := by
  rw [exec_eq_accept, accept_ready hs rfl, State.dropRecord_eq_accepted s (by decide), ← hrun]
  rfl

/-! ### The length and the version (R241) -/

theorem versionOf_none {c : Config} {h : List Byte} (hv : versionOf c h = none) :
    h ≠ c.magicV1.toList ∧ h ≠ c.magicV2.toList := by
  unfold versionOf at hv
  split_ifs at hv with h1 h2
  exact ⟨h1, h2⟩

/-- Settles O48: entry 0 raises without 720 bytes (`lengthCheck_raise`), entry 1 without a known prefix
(`verdet_unknown`). -/
theorem runChecksLengthThenVersion : Obligations.RunChecksLengthThenVersion := by
  refine fun s hs => ⟨fun hlen => ?_, fun hlen hver => ?_, rfl⟩
  · have hrun := runMicros_raise (m := ⟨.chklen, chklen⟩) (microprogram.drop 1)
      (lengthCheck_raise (s := (s.accepted.setBusy true).clearCall) hlen)
    exact exec_run_ready hs hrun
  · obtain ⟨h1, h2⟩ := versionOf_none hver
    have hrun := (runMicros_ok (m := ⟨.chklen, chklen⟩) (microprogram.drop 1)
      (lengthCheck_ok (s := (s.accepted.setBusy true).clearCall) hlen)).trans
      (runMicros_raise (m := ⟨.verdet, verdet⟩) (microprogram.drop 2)
        (verdet_unknown (s := (s.accepted.setBusy true).clearCall.nextMicro) hlen h1 h2))
    exact exec_run_ready hs hrun

/-! ### The two ends of RUN (R214, R221) -/

/-- A micro-command leaves the sequencer's registers. -/
theorem Micro.control {m : Micro} (hm : m ∈ microprogram) (s : State) : (m.body s).state.control = s.control := by
  rw [(microprogram_body m hm).1, bodyOf_control]

/-- The loop ends with a record, or at entry `n` of what is left, with UPC `n` further on (R34). -/
theorem runMicros_ends {ms : List Micro} (hms : ∀ m ∈ ms, m ∈ microprogram) (s : State) :
    (∃ t : State, t.err = s.err ∧ runMicros ms s = t.finishRun) ∨
      ∃ n m k t, ms[n]? = some m ∧ t.upc = s.upc + BitVec.ofNat 5 n ∧
        runMicros ms s = State.stop t k m.instr.opcode true := by
  induction ms generalizing s with
  | nil => exact .inl ⟨s, rfl, rfl⟩
  | cons m ms ih =>
    obtain ⟨hm, hms⟩ := List.forall_mem_cons.mp hms
    obtain ⟨hupc, herr, -⟩ := State.control_eq_iff.mp (Micro.control hm s)
    cases hb : m.body s with
    | raise k t =>
      rw [hb] at hupc
      exact .inr ⟨0, m, k, t, rfl, by simpa using hupc, runMicros_raise ms hb⟩
    | ok a t =>
      rw [hb, Res.state_ok] at hupc herr
      rw [runMicros_ok ms hb]
      rcases ih hms t.nextMicro with ⟨u, hu, hrun⟩ | ⟨n, m', k, u, hget, hu, hrun⟩
      · exact .inl ⟨u, hu.trans herr, hrun⟩
      · refine .inr ⟨n + 1, m', k, u, by simpa using hget, ?_, hrun⟩
        rw [hu, State.nextMicro_upc, hupc, BitVec.add_assoc, ← BitVec.ofNat_add, Nat.add_comm 1 n]

/-- Settles O50: the loop's two ends (`runMicros_ends`), UPC counting from 0. -/
theorem runHasTwoOutcomes : Obligations.RunHasTwoOutcomes := by
  intro s t hs h
  rw [exec_run_ready hs rfl] at h
  cases h
  rcases runMicros_ends (fun _ => id) (s.accepted.setBusy true).clearCall with
    ⟨u, hu, hrun⟩ | ⟨n, m, k, u, hget, hupc, hrun⟩ <;> rw [runAll, hrun]
  · exact .inl ⟨hu.trans hs.2, rfl, rfl⟩
  · obtain ⟨hn, -⟩ := List.getElem?_eq_some_iff.mp hget
    have hn : n < 27 := hn
    have hupcn : u.upc.toNat = n := by
      rw [hupc, State.clearCall_upc, BitVec.zero_add, BitVec.toNat_ofNat, Nat.mod_eq_of_lt (by omega)]
    refine .inr ⟨nofun, hupcn ▸ hn, rfl, rfl, m.instr, ?_, rfl⟩
    rw [State.setBusy_upc, State.stop_upc, hupcn, microCommands, List.getElem?_map, hget]
    rfl

end Sys2Proof.Machine
end

section
/-! PROOFS. What RUN does not see (R213): SSEL, the host's side, and the cells of DBUF and NQ outside the buffer and the
queue. No micro-command tells two states apart that differ in nothing else, so RUN does not either. -/

namespace Sys2Proof.Machine

/-! ### States that differ in what RUN does not see -/

/-- Contents for the registers a body does not read, and for the two memories it reads in part. -/
structure Unseen where
  dbuf      : Memory 8
  nq        : Memory 4
  ssel      : BitVec 5
  resetLine : Bool
  pending   : List HostAction
  response  : Response

/-- The state with other contents there. -/
def State.over (s : State) (u : Unseen) : State :=
  { s with
    dbuf := u.dbuf, nq := u.nq, ssel := u.ssel, resetLine := u.resetLine, pending := u.pending, response := u.response }

/-- What a state holds there. -/
def State.unseen (s : State) : Unseen := ⟨s.dbuf, s.nq, s.ssel, s.resetLine, s.pending, s.response⟩

/-- The other memories hold the same buffer and the same queue; all four are canonical, so that a write is read back. -/
structure State.Hides (s : State) (u : Unseen) : Prop where
  dbufWf : s.dbuf.wf = true ∧ u.dbuf.wf = true
  nqWf   : s.nq.wf = true ∧ u.nq.wf = true
  buffer : ∀ a < s.dlen.toNat, u.dbuf.read a = s.dbuf.read a
  queue  : ∀ a, s.nqh.toNat ≤ a → a < s.nqt.toNat → u.nq.read a = s.nq.read a

/-- A range write leaves two memories alike at every address where they were, and wherever it writes. -/
theorem Memory.read_writeRange_congr {w : Nat} {m m' : Memory w} (hm : m.wf = true) (hm' : m'.wf = true) {a b : Nat}
    {vs : List (BitVec w)} (h : b < a ∨ a + vs.length ≤ b → m'.read b = m.read b) :
    (m'.writeRange a vs).read b = (m.writeRange a vs).read b := by
  induction vs generalizing m m' a with
  | nil => exact h (by simp only [List.length_nil]; omega)
  | cons v vs ih =>
    refine ih (Memory.wf_write hm a v) (Memory.wf_write hm' a v) fun hb => ?_
    rw [Memory.read_write hm, Memory.read_write hm']
    split
    · rfl
    · exact h (by simp only [List.length_cons]; omega)

namespace State.Hides

variable {s : State} {u : Unseen}

theorem readRange (h : s.Hides u) {a n : Nat} (hn : a + n ≤ s.dlen.toNat) :
    u.dbuf.readRange a n = s.dbuf.readRange a n :=
  Memory.readRange_congr fun i hi => h.buffer (a + i) (by omega)

theorem remaining (h : s.Hides u) : (s.over u).remaining = s.remaining :=
  Memory.readRange_congr fun i hi => h.buffer (s.cur.toNat + i) (by
    change i < s.dlen.toNat - s.cur.toNat at hi
    omega)

theorem queue_eq (h : s.Hides u) : (s.over u).queue = s.queue :=
  Memory.readRange_congr fun i hi => h.queue (s.nqh.toNat + i) (Nat.le_add_right _ _) (by
    change i < s.nqt.toNat - s.nqh.toNat at hi
    omega)

/-- The cursor, the latch, the slots and the other registers do not matter. -/
theorem congr {t : State} (h : s.Hides u)
    (ht : (t.dbuf, t.dlen, t.nq, t.nqh, t.nqt) = (s.dbuf, s.dlen, s.nq, s.nqh, s.nqt)) : t.Hides u := by
  simp only [Prod.mk.injEq] at ht
  obtain ⟨hdbuf, hdlen, hnq, hnqh, hnqt⟩ := ht
  constructor
  · rw [hdbuf]; exact h.dbufWf
  · rw [hnq]; exact h.nqWf
  · rw [hdbuf, hdlen]; exact h.buffer
  · rw [hnq, hnqh, hnqt]; exact h.queue

end State.Hides

/-! ### Bodies that do not see it -/

/-- Two results with one end and one value, whose states differ in nothing but what is not seen. -/
inductive Res.Alike {α : Type} : Res α → Res α → Prop
  | ok (a : α) (s : State) (u : Unseen) (h : s.Hides u) : Res.Alike (.ok a s) (.ok a (s.over u))
  | raise (k : ErrorKind) (s : State) (u : Unseen) (h : s.Hides u) : Res.Alike (.raise k s) (.raise k (s.over u))

theorem Res.Alike.bind {α β : Type} {r r' : Res α} {f : α → State → Res β} (h : r.Alike r')
    (hf : ∀ a s u, s.Hides u → (f a s).Alike (f a (s.over u))) : (r.bind f).Alike (r'.bind f) := by
  cases h with
  | ok a s u h => exact hf a s u h
  | raise k s u h => exact .raise k s u h

theorem Res.Alike.ite {α : Type} {p : Prop} [Decidable p] {r₁ r₂ r₁' r₂' : Res α} (ht : p → r₁.Alike r₁')
    (hf : ¬p → r₂.Alike r₂') : (if p then r₁ else r₂).Alike (if p then r₁' else r₂') := by
  split
  · next hp => exact ht hp
  · next hp => exact hf hp

/-- The body does the same whatever stands where it does not look. -/
def Body.Blind (f : Body) : Prop := ∀ s u, s.Hides u → (f s).Alike (f (s.over u))

theorem Body.Blind.andThen {f g : Body} (hf : f.Blind) (hg : g.Blind) : (f.andThen g).Blind :=
  fun s u h => (hf s u h).bind fun _ => hg

/-! ### The version, key and modular-exponentiation commands -/

theorem lengthCheck_blind : Body.Blind lengthCheck :=
  fun s u h => .ite (fun _ => .ok () s u h) fun _ => .raise _ s u h

theorem verdet_blind : Body.Blind verdet := fun s u h =>
  (lengthCheck_blind s u h).bind fun _ t v ht =>
    .ite (fun _ => .ok () { t with ver := .v1 } v { ht with }) fun _ =>
      .ite (fun _ => .ok () { t with ver := .v2 } v { ht with }) fun _ => .raise _ t v ht

theorem loadKey_blind (cls : BlockClass) : Body.Blind (loadKey cls) := by
  intro s u h
  cases hkey : keyOf s.config s.ver cls with
  | none =>
    rw [loadKey_none hkey, loadKey_none (s := s.over u) hkey]
    exact .raise _ s u h
  | some key =>
    rw [loadKey_some hkey, loadKey_some (s := s.over u) hkey]
    exact .ok () { s with mn := key.n, me := key.e } u { h with }

theorem loadBlock_blind (k : Nat) : Body.Blind (loadBlock k) := fun s u h =>
  (lengthCheck_blind s u h).bind fun _ t v ht =>
    .ok () { t with mx := BitVec.ofNat 1024 (blockValue t.raw k) } v { ht with }

theorem modexp_blind : Body.Blind modexp := by
  intro s u h
  by_cases hmn : s.mn = 0
  · rw [modexp_raise hmn, modexp_raise (s := s.over u) hmn]
    exact .raise _ s u h
  · rw [modexp_ok hmn, modexp_ok (s := s.over u) hmn]
    exact .ok () _ u { h with }

theorem append_blind : Body.Blind append := by
  intro s u h
  by_cases hfull : 768 < s.dlen.toNat + s.mrLen.toNat
  · rw [append_raise hfull, append_raise (s := s.over u) hfull]
    exact .raise _ s u h
  have hfits := Nat.not_lt.mp hfull
  rw [append_ok hfits, append_ok (s := s.over u) hfits]
  refine .ok () _ { u with dbuf := u.dbuf.writeRange s.dlen.toNat (beBytes s.mr.toNat s.mrLen.toNat) }
    { h with dbufWf := ?_, buffer := fun a ha => ?_ }
  · exact ⟨Memory.wf_writeRange h.dbufWf.1 _ _, Memory.wf_writeRange h.dbufWf.2 _ _⟩
  · refine Memory.read_writeRange_congr h.dbufWf.1 h.dbufWf.2 fun hout => h.buffer a ?_
    rw [length_beBytes] at hout
    change a < (BitVec.ofNat 10 _).toNat at ha
    rw [BitVec.toNat_ofNat, Nat.mod_eq_of_lt (by omega)] at ha
    omega

theorem decryptBlock_blind (k : Nat) : Body.Blind (decryptBlock k) :=
  (loadBlock_blind k).andThen ((loadKey_blind _).andThen (modexp_blind.andThen append_blind))

theorem decryptBlocks_blind (ks : List Nat) : Body.Blind (decryptBlocks ks) := by
  induction ks with
  | nil => exact fun s u h => .ok () s u h
  | cons k ks ih => exact (decryptBlock_blind k).andThen ih

/-- With an empty buffer and an empty queue no cell of the two memories is seen. -/
theorem State.Hides.of_empty {s : State} {u : Unseen} (hdbuf : s.dbuf.wf = true ∧ u.dbuf.wf = true)
    (hnq : s.nq.wf = true ∧ u.nq.wf = true) (hdlen : s.dlen = 0#10) (hnqt : s.nqt = 0#11) : s.Hides u where
  dbufWf := hdbuf
  nqWf := hnq
  buffer a ha := by simp [hdlen] at ha
  queue a _ ha := by simp [hnqt] at ha

theorem assemble_blind : Body.Blind assemble := fun s u h =>
  decryptBlocks_blind _ s.clearBuffer u (.of_empty h.dbufWf h.nqWf rfl rfl)

/-! ### The field scanner -/

theorem seek_blind : Body.Blind seek := by
  intro s u h
  have hsearch : indexOf (s.over u).config.marker ((s.over u).dbuf.readRange 0 (s.over u).dlen.toNat) =
      indexOf s.config.marker (s.dbuf.readRange 0 s.dlen.toNat) :=
    congrArg (indexOf s.config.marker) (h.readRange (Nat.zero_add _).le)
  unfold seek
  rw [hsearch]
  cases indexOf s.config.marker (s.dbuf.readRange 0 s.dlen.toNat) with
  | none => exact .raise _ s u h
  | some p =>
    exact .ite (fun _ => .raise _ s u h) fun _ => .ok () { s with cur := BitVec.ofNat 10 (p + 2) } u { h with }

theorem scanString_over {s : State} {u : Unseen} (h : s.Hides u) :
    scanString (s.over u) = { scanString s with state := (scanString s).state.over u } := by
  have hsplit : splitAtDelim (s.over u).config (s.over u).remaining = splitAtDelim s.config s.remaining :=
    congrArg (splitAtDelim s.config) h.remaining
  unfold scanString
  rw [hsplit]
  obtain ⟨acc, _ | d⟩ := splitAtDelim s.config s.remaining <;> rfl

theorem State.Hides.scanString {s : State} {u : Unseen} (h : s.Hides u) : (scanString s).state.Hides u :=
  h.congr (by rw [scanString_state])

theorem readStrings_over {s : State} {u : Unseen} (h : s.Hides u) (rd n k : Nat) :
    readStrings rd n k (s.over u) = ((readStrings rd n k s).1, (readStrings rd n k s).2.over u) := by
  induction n generalizing k s with
  | zero => rfl
  | succ n ih =>
    have hscan := h.scanString
    simp only [readStrings, scanString_over h]
    by_cases hacc : (Machine.scanString s).acc = [] <;> by_cases hend : (Machine.scanString s).ended = true <;>
      simp only [hacc, hend, if_true, if_false, Bool.false_eq_true]
    · exact ih hscan k
    · rfl
    · exact ih (s := (Machine.scanString s).state.setSlot (rd + k) (some (Machine.scanString s).acc)) { hscan with } (k + 1)

theorem State.clearSlots_over (s : State) (u : Unseen) (rd n : Nat) :
    (s.over u).clearSlots rd n = (s.clearSlots rd n).over u := by
  induction n generalizing s rd with
  | zero => rfl
  | succ n ih => exact ih (s.setSlot rd none) (rd + 1)

theorem State.Hides.clearSlots {s : State} {u : Unseen} (h : s.Hides u) (rd n : Nat) : (s.clearSlots rd n).Hides u :=
  h.congr (by rw [State.clearSlots_eq])

theorem rdstrs_blind (rd count : Nat) : Body.Blind (rdstrs rd count) := by
  intro s u h
  have hclear := h.clearSlots rd count
  simp only [rdstrs, State.clearSlots_over, readStrings_over hclear]
  exact .ok () { (readStrings rd count 0 (s.clearSlots rd count)).2 with
    lcnt := BitVec.ofNat 6 (readStrings rd count 0 (s.clearSlots rd count)).1 } u
    (hclear.congr (by rw [readStrings_state]))

theorem rdstr_blind (rd : Nat) : Body.Blind (rdstr rd) := by
  intro s u h
  have hscan := h.scanString
  unfold rdstr
  rw [scanString_over h]
  exact .ite (fun _ => .raise _ _ u hscan) fun _ =>
    .ok () ((scanString s).state.setSlot rd (some (scanString s).acc)) u { hscan with }

theorem rdopt_blind (rd : Nat) : Body.Blind (rdopt rd) := fun s u h =>
  .ite (fun _ => rdstr_blind rd s u h) fun _ => .ok () (s.setSlot rd none) u { h with }

theorem rdraw_blind (rd n : Nat) : Body.Blind (rdraw rd n) := by
  refine fun s u h => .ite (fun _ => .raise _ s u h) fun hfits => ?_
  have hread : (s.over u).dbuf.readRange (s.over u).cur.toNat n = s.dbuf.readRange s.cur.toNat n :=
    h.readRange (Nat.not_lt.mp hfits)
  rw [hread]
  exact .ok () ((s.setSlot rd _).advance n) u { h with }

theorem rddec2_blind (rd : Nat) : Body.Blind (rddec2 rd) := by
  refine fun s u h => .ite (fun hlt => ?_) fun _ => .raise _ s u h
  have hread : (s.over u).dbuf.read (s.over u).cur.toNat = s.dbuf.read s.cur.toNat := h.buffer s.cur.toNat hlt
  rw [hread]
  exact .ite (fun _ => .raise _ (s.advance 1) u { h with }) fun _ => .ok () ((s.advance 1).setSlot rd _) u { h with }

theorem skip_blind (n : Nat) : Body.Blind (skip n) := fun s u h =>
  .ite (fun _ => .raise _ s u h) fun _ => .ok () (s.advance n) u { h with }

/-- The queue loaded is the same, and no cell beyond it is seen. -/
theorem State.Hides.loadQueue {s : State} {u : Unseen} (h : s.Hides u) (bs : List Byte) :
    (s.loadQueue bs).Hides { u with nq := u.nq.writeRange 0 (nibblesOf bs) } where
  __ := h
  nqWf := ⟨Memory.wf_writeRange h.nqWf.1 _ _, Memory.wf_writeRange h.nqWf.2 _ _⟩
  queue a _ ha := by
    refine Memory.read_writeRange_congr h.nqWf.1 h.nqWf.2 fun hout => ?_
    have hnqt := Nat.mod_le (2 * bs.length) (2 ^ 11)
    rw [State.loadQueue_nqt, BitVec.toNat_ofNat] at ha
    rw [length_nibblesOf] at hout
    omega

theorem nqload_blind : Body.Blind nqload := by
  intro s u h
  have hsplit : splitAtTerm (s.over u).config.term (s.over u).remaining = splitAtTerm s.config.term s.remaining :=
    congrArg (splitAtTerm s.config.term) h.remaining
  unfold nqload
  rw [hsplit]
  obtain ⟨pre, found⟩ := splitAtTerm s.config.term s.remaining
  have hload := h.loadQueue pre
  refine .ite (fun _ => ?_) fun _ => .raise _ ((s.loadQueue pre).advance pre.length) _ { hload with }
  change Res.Alike (.ok () (if s.config.termConsumed = true then _ else _))
    (.ok () (if s.config.termConsumed = true then _ else _))
  split
  · exact .ok () (((s.loadQueue pre).advance pre.length).advance 1) _ { hload with }
  · exact .ok () ((s.loadQueue pre).advance pre.length) _ { hload with }

/-! ### The nibble decoder -/

theorem pop_alike {s : State} {u : Unseen} (h : s.Hides u) : (pop s).Alike (pop (s.over u)) := by
  refine .ite (fun hlt => ?_) fun _ => .raise _ s u h
  have hread : (s.over u).nq.read (s.over u).nqh.toNat = s.nq.read s.nqh.toNat := h.queue s.nqh.toNat le_rfl hlt
  rw [hread]
  refine .ok _ { s with nqh := BitVec.ofNat 11 (s.nqh.toNat + 1) } u { h with queue := fun a ha hlt' => h.queue a ?_ hlt' }
  have hnqt := s.nqt.isLt
  rw [BitVec.toNat_ofNat, Nat.mod_eq_of_lt (by omega)] at ha
  omega

theorem popMany_alike {s : State} {u : Unseen} (h : s.Hides u) (n : Nat) :
    (popMany n s).Alike (popMany n (s.over u)) := by
  induction n generalizing s u with
  | zero => exact .ok [] s u h
  | succ n ih => exact (pop_alike h).bind fun v t w ht => (ih ht).bind fun vs => .ok (v :: vs)

theorem dateGroup_alike {s : State} {u : Unseen} (h : s.Hides u) : (dateGroup s).Alike (dateGroup (s.over u)) :=
  (pop_alike h).bind fun d t v ht => .ite (fun _ => .ok none t v ht) fun _ =>
    (popMany_alike ht 7).bind fun ds t v ht => by
      cases digitChars (d :: ds) with
      | none => exact .raise _ t v ht
      | some cs => exact .ok _ t v ht

theorem dateg_blind (rd : Nat) : Body.Blind (dateg rd) := fun _ _ h =>
  (dateGroup_alike h).bind fun g t v ht => .ok () (t.setSlot rd g) v { ht with }

theorem readDates_alike {s : State} {u : Unseen} (h : s.Hides u) (rd n k : Nat) :
    (readDates rd n k s).Alike (readDates rd n k (s.over u)) := by
  induction n generalizing k s u with
  | zero => exact .ok k s u h
  | succ n ih =>
    refine (dateGroup_alike h).bind fun g t v ht => ?_
    cases g with
    | none => exact ih ht k
    | some d => exact ih (s := t.setSlot (rd + k) (some d)) { ht with } (k + 1)

theorem datel_blind (rd count : Nat) : Body.Blind (datel rd count) := by
  intro s u h
  unfold datel
  rw [State.clearSlots_over]
  exact (readDates_alike (h.clearSlots rd count) rd count 0).bind fun k t v ht =>
    .ok () { t with lcnt := BitVec.ofNat 6 k } v { ht with }

theorem code_blind (rd width : Nat) : Body.Blind (code rd width) := fun _ _ h =>
  (popMany_alike h width).bind fun vs t v ht => by
    cases digitChars vs with
    | none => exact .raise _ t v ht
    | some cs => exact .ok () (t.setSlot rd (some cs)) v { ht with }

theorem gender_blind (rd : Nat) : Body.Blind (gender rd) := fun _ _ h =>
  (popMany_alike h 2).bind fun vs t v ht => by
    cases digitChars vs with
    | none => exact .raise _ t v ht
    | some cs => exact .ok () (t.setSlot rd (some [genderLabel vs])) v { ht with }

/-! ### RUN (R213, R214) -/

theorem bodyOf_blind (i : Instr) : Body.Blind (bodyOf i) := by
  cases i with
  | nop | clr | run => exact fun s u h => .ok () s u h
  | chklen => exact lengthCheck_blind
  | verdet => exact verdet_blind
  | ldkey cls => exact loadKey_blind _
  | ldblk k => exact loadBlock_blind _
  | modexp => exact modexp_blind
  | append => exact append_blind
  | decblk k => exact decryptBlock_blind _
  | assemble => exact assemble_blind
  | seek => exact seek_blind
  | rdstrs rd count => exact rdstrs_blind _ _
  | rdstr rd => exact rdstr_blind _
  | rdopt rd => exact rdopt_blind _
  | rdraw rd n => exact rdraw_blind _ _
  | rddec2 rd => exact rddec2_blind _
  | skip n => exact skip_blind _
  | nqload => exact nqload_blind
  | dateg rd => exact dateg_blind _
  | datel rd count => exact datel_blind _ _
  | code rd width => exact code_blind _ _
  | gender rd => exact gender_blind _

/-- The loop ends in states that differ in nothing but what is not seen. -/
theorem runMicros_over {ms : List Micro} (hms : ∀ m ∈ ms, m ∈ microprogram) {s : State} {u : Unseen} (h : s.Hides u) :
    ∃ v, (runMicros ms s).Hides v ∧ runMicros ms (s.over u) = (runMicros ms s).over v := by
  induction ms generalizing s u with
  | nil => exact ⟨u, { h with }, rfl⟩
  | cons m ms ih =>
    obtain ⟨hm, hms⟩ := List.forall_mem_cons.mp hms
    have halike : (m.body s).Alike (m.body (s.over u)) := by
      rw [(microprogram_body m hm).1]
      exact bodyOf_blind m.instr s u h
    generalize hr : m.body s = r at halike
    generalize hr' : m.body (s.over u) = r' at halike
    cases halike with
    | raise k t v ht =>
      rw [runMicros_raise ms hr, runMicros_raise ms hr']
      exact ⟨v, { ht with }, rfl⟩
    | ok a t v ht =>
      rw [runMicros_ok ms hr, runMicros_ok ms hr']
      exact ih hms (s := t.nextMicro) { ht with }

/-- A cleared call state holds nothing of the last call but what RUN does not see (R213). -/
theorem clearCall_eq_over {s s' : State} (herr : s.err = s'.err) (heinfo : s.einfo = s'.einfo) (hbusy : s.busy = s'.busy)
    (hraw : s.raw = s'.raw) (hlen : s.rawLen = s'.rawLen) (hconfig : s.config = s'.config) :
    s'.clearCall = s.clearCall.over s'.unseen := by
  simp only [State.clearCall, State.over, State.unseen, herr, heinfo, hbusy, hraw, hlen, hconfig]

/-- Settles O51: the two cleared states differ in nothing RUN sees (`clearCall_eq_over`), and so do the two it ends in
(`runMicros_over`). -/
theorem runDependsOnInputOnly : Obligations.RunDependsOnInputOnly := by
  intro s s' t t' hs hs' herr herr' hraw hlen hconfig h h'
  have hstart := clearCall_eq_over (s := s.accepted.setBusy true) (s' := s'.accepted.setBusy true)
    (herr.trans herr'.symm) ((hs.einfoIdle herr).trans (hs'.einfoIdle herr').symm) rfl hraw hlen hconfig
  have hhides : (s.accepted.setBusy true).clearCall.Hides (s'.accepted.setBusy true).unseen :=
    .of_empty ⟨hs.dbufWf.1, hs'.dbufWf.1⟩ ⟨hs.nqWf.1, hs'.nqWf.1⟩ rfl rfl
  obtain ⟨v, hv, hrun⟩ := runMicros_over (fun _ => id) hhides
  rw [← hstart] at hrun
  obtain ⟨-, hline, hpending, hresponse, -, -, hssel⟩ := State.outer_eq_iff.mp (exec_outer (by decide) h')
  rw [exec_run_ready ⟨hs.idle, herr⟩ rfl] at h
  rw [exec_run_ready ⟨hs'.idle, herr'⟩ hrun] at h'
  cases h
  cases h'
  rw [← hline, ← hpending, ← hresponse, ← hssel]
  exact ⟨rfl, hv.readRange (Nat.zero_add _).le, hv.queue_eq⟩

end Sys2Proof.Machine
end

section
/-! PROOFS. One micro-command at a time over a plaintext in the field schema (R215, R216, R218): what it takes off the bytes
and nibbles still to be read, and the slots it adds to those already filled. -/

namespace Sys2Proof.Machine

/-! ### The state between two micro-commands -/

/-- RUN on its way through the record: `bs` and `ns` are still to be read, the slots hold `vs` from S0 on and nothing more,
and the registers that only the first micro-commands write are those of `b`. -/
structure State.Reading (b : State) (bs : List Byte) (ns : List Nibble) (vs : List Slot) (t : State) : Prop where
  outer     : t.outer = b.outer
  ver       : t.ver = b.ver
  dlen      : t.dlen = b.dlen
  err       : t.err = b.err
  einfo     : t.einfo = b.einfo
  nqWf      : t.nq.wf = true
  remaining : t.remaining = bs
  queue     : t.queue = ns
  slot      : ∀ j, t.slot j = vs.getD j none

theorem State.Reading.config {b t : State} {bs : List Byte} {ns : List Nibble} {vs : List Slot}
    (h : b.Reading bs ns vs t) : t.config = b.config :=
  (State.outer_eq_iff.mp h.outer).1

/-- From `P` the body completes, in `Q`. -/
def Body.Leads (f : Body) (P Q : State → Prop) : Prop := ∀ s, P s → ∃ t, f s = .ok () t ∧ Q t

/-! ### Slots filled from S0 on (R22, R166, R195) -/

@[simp] theorem length_packed (vs : List (List Byte)) (n : Nat) : (packed vs n).length = n := by simp [packed]

theorem getD_append_singleton (vs : List Slot) (v : Slot) (j : Nat) :
    (vs ++ [v]).getD j none = if j = vs.length then v else vs.getD j none := by
  rcases Nat.lt_trichotomy j vs.length with h | rfl | h
  · rw [List.getD_append _ _ _ _ h, if_neg h.ne]
  · simp
  · rw [if_neg h.ne', List.getD_eq_default _ _ (by simpa using h), List.getD_eq_default _ _ h.le]

theorem getD_append_packed (vs : List Slot) (ws : List (List Byte)) (n j : Nat) :
    (vs ++ packed ws n).getD j none =
      if vs.length ≤ j ∧ j < vs.length + n then ws[j - vs.length]? else vs.getD j none := by
  rcases Nat.lt_or_ge j vs.length with h | h
  · rw [List.getD_append _ _ _ _ h, if_neg (by omega)]
  rw [List.getD_append_right _ _ _ _ h]
  by_cases hn : j < vs.length + n
  · rw [if_pos ⟨h, hn⟩, packed, List.getD_eq_getElem _ _ (by simp; omega)]
    simp
  · rw [if_neg (by omega), List.getD_eq_default _ _ (by simp; omega), List.getD_eq_default _ _ h]

theorem toList_slots_eq {s : State} {vs : List Slot} (hlen : vs.length ≤ 32) (h : ∀ j, s.slot j = vs.getD j none) :
    s.slots.toList = vs ++ List.replicate (32 - vs.length) none := by
  refine List.ext_getElem (by simp; omega) fun j hj hj' => ?_
  have hslot : s.slots.toList[j] = vs.getD j none := (List.getD_eq_getElem _ _ hj).symm.trans (h j)
  rw [hslot, List.getElem_append]
  split
  · next hlt => exact List.getD_eq_getElem _ _ hlt
  · next hge => rw [List.getElem_replicate, List.getD_eq_default _ _ (Nat.not_lt.mp hge)]

section Steps

variable {b s : State} {bs : List Byte} {ns : List Nibble} {vs : List Slot}

theorem State.Reading.slot_concat (h : b.Reading bs ns vs s) {rd : BitVec 5} (hrd : vs.length = rd.toNat) (v : Slot)
    (j : Nat) : ({ s with slots := s.slots.set rd.toNat v } : State).slot j = (vs ++ [v]).getD j none := by
  rw [← State.setSlot_operand, State.slot_setSlot, getD_append_singleton, h.slot, hrd]
  simp only [rd.isLt, and_true]

theorem State.Reading.slot_packed (h : b.Reading bs ns vs s) {t : State} {rd n : Nat} {ws : List (List Byte)}
    (hrd : vs.length = rd)
    (ht : ∀ j, t.slot j = if rd ≤ j ∧ j < rd + n then ws[j - rd]? else s.slot j) (j : Nat) :
    t.slot j = (vs ++ packed ws n).getD j none := by
  rw [ht, getD_append_packed, h.slot, hrd]

theorem State.Reading.next (h : b.Reading bs ns vs s) : b.Reading bs ns vs s.nextMicro := { h with }

/-! ### SEEK (R162, R163) -/

/-- At the start of the buffer the search finds the marker behind bytes that are not the marker. -/
theorem seek_lead {lead rest : List Byte} {x : Byte} (hcur : s.cur = 0#10) (hlead : s.config.marker ∉ lead)
    (hrem : s.remaining = lead ++ s.config.marker :: x :: rest) : seek s = .ok () (s.advance (lead.length + 2)) := by
  have hlen := s.length_remaining
  have hbuf : s.dbuf.readRange 0 s.dlen.toNat = lead ++ s.config.marker :: x :: rest := by
    simpa [State.remaining, hcur] using hrem
  have hfound : indexOf s.config.marker (s.dbuf.readRange 0 s.dlen.toNat) = some lead.length := by
    rw [hbuf]
    refine indexOf_eq (by simp) fun q hq hmarker => hlead ?_
    rw [List.getElem?_append_left hq] at hmarker
    exact List.mem_of_getElem? hmarker
  rw [hrem, hcur] at hlen
  simp only [List.length_append, List.length_cons] at hlen
  rw [seek, hfound]
  refine (if_neg ?_).trans ?_
  · change _ = _ - 0 at hlen
    omega
  · rw [State.advance, hcur, show (0#10).toNat = 0 from rfl, Nat.zero_add]

theorem seek_leads {lead : List Byte} {x : Byte} (hlead : b.config.marker ∉ lead) :
    Body.Leads seek (fun s => b.Reading (lead ++ b.config.marker :: x :: bs) ns vs s ∧ s.cur = 0#10)
      (b.Reading bs ns vs) := by
  rintro s ⟨h, hcur⟩
  have hrem := State.remaining_advance (xs := lead ++ [b.config.marker, x]) (by simpa using h.remaining)
  rw [List.length_append] at hrem
  rw [← h.config] at hlead
  exact ⟨_, seek_lead hcur hlead (h.remaining.trans (by rw [h.config])), { h with remaining := hrem }⟩

/-! ### The field scanner (R161 to R177) -/

theorem rdstrs_leads {fs : List Field} {rd count : Nat} (hf : fs.length = count ∧ ∀ f ∈ fs, fieldOk b.config f = true)
    (hrd : vs.length = rd) (hw : rd + count ≤ 32) :
    Body.Leads (rdstrs rd count) (b.Reading (fs.flatMap fieldBytes ++ bs) ns vs)
      (b.Reading bs ns (vs ++ packed (keptStrings fs) count)) := by
  obtain ⟨rfl, hf⟩ := hf
  intro s h
  have hkept : (keptWith fs []).length ≤ fs.length := keptWith_nil fs ▸ length_keptStrings_le fs
  have hslot := h.slot_packed hrd (State.slot_listRead hw hkept)
  have hrem := State.remaining_advance (xs := fs.flatMap fieldBytes ++ []) (by simpa using h.remaining)
  refine ⟨_, rdstrs_full rd (by rwa [h.config]) h.remaining, ?_⟩
  rw [keptWith_nil] at hslot
  rw [State.listRead_eq]
  exact { h with remaining := hrem, slot := hslot }

theorem length_fieldBytes (f : Field) : (fieldBytes f).length = f.1.length + 1 := by simp [fieldBytes]

/-- RDSTR on a field; the delimiter that ends it is latched (R31). -/
theorem rdstr_latches {f : Field} {rd : BitVec 5} (hf : fieldOk b.config f = true) (hrd : vs.length = rd.toNat) :
    Body.Leads (rdstr rd.toNat) (b.Reading (fieldBytes f ++ bs) ns vs)
      fun t => b.Reading bs ns (vs ++ [some f.1]) t ∧ t.ldValid = true ∧ t.lastDelim = f.2 := by
  intro s h
  have hrem := State.remaining_advance h.remaining
  rw [length_fieldBytes] at hrem
  exact ⟨_, rdstr_field rd (by rwa [h.config]) h.remaining,
    { h with remaining := hrem, slot := h.slot_concat hrd (some f.1) }, rfl, rfl⟩

theorem rdstr_leads {f : Field} {rd : BitVec 5} (hf : fieldOk b.config f = true) (hrd : vs.length = rd.toNat) :
    Body.Leads (rdstr rd.toNat) (b.Reading (fieldBytes f ++ bs) ns vs) (b.Reading bs ns (vs ++ [some f.1])) := by
  intro s h
  obtain ⟨t, hbody, ht, -⟩ := rdstr_latches hf hrd s h
  exact ⟨t, hbody, ht⟩

/-- RDOPT after a string that ended in `d`: there is another string just when `d` signals one. -/
theorem rdopt_leads {f : Option Field} {d : Byte} {rd : BitVec 5}
    (hf : f.isSome = (d == extraDelimByte b.config) ∧ ∀ g ∈ f.toList, fieldOk b.config g = true)
    (hrd : vs.length = rd.toNat) :
    Body.Leads (rdopt rd.toNat)
      (fun s => b.Reading (f.toList.flatMap fieldBytes ++ bs) ns vs s ∧ s.ldValid = true ∧ s.lastDelim = d)
      (b.Reading bs ns (vs ++ [f.map Prod.fst])) := by
  obtain ⟨hsome, hf⟩ := hf
  rintro s ⟨h, hvalid, rfl⟩
  cases f with
  | none =>
    have hd : s.lastDelim ≠ extraDelimByte s.config := by simpa [h.config] using hsome
    exact ⟨_, rdopt_unsignalled rd (.inr hd), { h with slot := h.slot_concat hrd none }⟩
  | some f =>
    have hd : s.lastDelim = extraDelimByte s.config := by simpa [h.config] using hsome
    rw [rdopt_signalled rd.toNat hvalid hd]
    exact rdstr_leads (hf f (by simp)) hrd s (by simpa using h)

/-- The bytes that remain begin at the cursor. -/
theorem readRange_of_remaining {xs rest : List Byte} (h : s.remaining = xs ++ rest) :
    s.dbuf.readRange s.cur.toNat xs.length = xs := by
  have hlen := s.length_remaining
  rw [h, List.length_append] at hlen
  rw [State.remaining, ← hlen, Memory.readRange_append] at h
  exact (List.append_inj h (by simp)).1

theorem cur_add_le_dlen {xs rest : List Byte} (h : s.remaining = xs ++ rest) (hpos : 0 < xs.length) :
    s.cur.toNat + xs.length ≤ s.dlen.toNat := by
  have hlen := s.length_remaining
  rw [h, List.length_append] at hlen
  omega

theorem rdraw_leads {xs : List Byte} {rd : BitVec 5} {n : Nat} (hn : xs.length = n) (hpos : 0 < n)
    (hrd : vs.length = rd.toNat) :
    Body.Leads (rdraw rd.toNat n) (b.Reading (xs ++ bs) ns vs) (b.Reading bs ns (vs ++ [some xs])) := by
  subst hn
  intro s h
  have hslot := h.slot_concat hrd (some xs)
  refine ⟨_, rdraw_ok (cur_add_le_dlen h.remaining hpos), ?_⟩
  rw [readRange_of_remaining h.remaining]
  exact { h with remaining := State.remaining_advance h.remaining, slot := hslot }

theorem rddec2_leads {x : Byte} {rd : BitVec 5} (hx : x.toNat < 100) (hrd : vs.length = rd.toNat) :
    Body.Leads (rddec2 rd.toNat) (b.Reading ([x] ++ bs) ns vs) (b.Reading bs ns (vs ++ [some (twoDigits x)])) := by
  intro s h
  have hslot := h.slot_concat hrd (some (twoDigits x))
  have hread : s.dbuf.read s.cur.toNat = x := (List.cons.inj (readRange_of_remaining h.remaining)).1
  refine ⟨_, rddec2_digits (cur_add_le_dlen h.remaining (by simp)) (by rwa [hread]), ?_⟩
  rw [hread]
  exact { h with remaining := State.remaining_advance h.remaining, slot := hslot }

theorem skip_leads {xs : List Byte} {n : Nat} (hn : xs.length = n) (hpos : 0 < n) :
    Body.Leads (skip n) (b.Reading (xs ++ bs) ns vs) (b.Reading bs ns vs) := by
  subst hn
  intro s h
  exact ⟨_, skip_ok (cur_add_le_dlen h.remaining hpos), { h with remaining := State.remaining_advance h.remaining }⟩

/-- NQLOAD before a terminator: the bytes up to it become the queue; it is itself read or left (TERM_CONSUMED, R176). -/
theorem nqload_leads {pre : List Byte} (hpre : b.config.term ∉ pre) :
    Body.Leads nqload (b.Reading (pre ++ b.config.term :: bs) ns vs)
      (b.Reading (if b.config.termConsumed = true then bs else b.config.term :: bs) (nibblesOf pre) vs) := by
  intro s h
  have hlen := s.length_remaining
  have hd := s.dlen.isLt
  rw [h.remaining, List.length_append, List.length_cons] at hlen
  have hfound := h.remaining
  rw [← h.config] at hpre hfound ⊢
  refine ⟨_, nqload_found hpre hfound, { h with nqWf := ?_, remaining := ?_, queue := ?_ }⟩
  · exact Memory.wf_writeRange h.nqWf _ _
  · have hterm := State.remaining_advance (s := s.loadQueue pre) (xs := pre ++ [s.config.term])
      (hfound.trans (List.append_cons _ _ _))
    rw [List.length_append, List.length_singleton] at hterm
    split
    · exact hterm
    · exact State.remaining_advance (s := s.loadQueue pre) hfound
  · exact State.queue_loadQueue h.nqWf (by omega)

/-! ### The nibble decoder (R192 to R198) -/

theorem datel_leads {gs : List (Option (List Nibble))} {rd count : Nat}
    (hg : gs.length = count ∧ ∀ g ∈ gs, groupOk g = true) (hrd : vs.length = rd) (hw : rd + count ≤ 32) :
    Body.Leads (datel rd count) (b.Reading bs (gs.flatMap groupNibbles ++ ns) vs)
      (b.Reading bs ns (vs ++ packed (presentDates gs) count)) := by
  obtain ⟨rfl, hg⟩ := hg
  intro s h
  have hslot := h.slot_packed hrd (State.slot_datesRead hw)
  refine ⟨_, datel_groups rd hg h.queue, ?_⟩
  rw [State.datesRead_eq]
  exact { h with queue := State.queue_popped h.queue, slot := hslot }

theorem dateGroup_ok {g : Option (List Nibble)} (hg : groupOk g = true) (hq : s.queue = groupNibbles g ++ ns) :
    dateGroup s = .ok (groupSlot g) (s.popped (groupNibbles g).length) := by
  cases g with
  | none => exact dateGroup_absent hq
  | some ds =>
    have hds : ds.length = 8 ∧ ∀ d ∈ ds, d.toNat ≤ 9 := by simpa [groupOk] using hg
    rw [dateGroup_present hq hds.1 hds.2]
    exact congrArg (fun n => Res.ok _ (s.popped n)) hds.1.symm

theorem dateg_leads {g : Option (List Nibble)} {rd : BitVec 5} (hg : groupOk g = true) (hrd : vs.length = rd.toNat) :
    Body.Leads (dateg rd.toNat) (b.Reading bs (groupNibbles g ++ ns) vs) (b.Reading bs ns (vs ++ [groupSlot g])) :=
  fun _ h => ⟨_, dateg_ok rd (dateGroup_ok hg h.queue),
    { h with queue := State.queue_popped h.queue, slot := h.slot_concat hrd _ }⟩

theorem code_leads {ds : List Nibble} {rd : BitVec 5} {width : Nat} (hd : ds.length = width ∧ ∀ d ∈ ds, d.toNat ≤ 9)
    (hrd : vs.length = rd.toNat) :
    Body.Leads (code rd.toNat width) (b.Reading bs (ds ++ ns) vs) (b.Reading bs ns (vs ++ [some (ds.map digitByte)])) := by
  obtain ⟨rfl, hd⟩ := hd
  exact fun s h => ⟨_, code_digits rd h.queue rfl hd,
    { h with queue := State.queue_popped h.queue, slot := h.slot_concat hrd _ }⟩

theorem gender_leads {ds : List Nibble} {rd : BitVec 5} (hd : ds.length = 2 ∧ ∀ d ∈ ds, d.toNat ≤ 9)
    (hrd : vs.length = rd.toNat) :
    Body.Leads (gender rd.toNat) (b.Reading bs (ds ++ ns) vs) (b.Reading bs ns (vs ++ [some [genderLabel ds]])) := by
  obtain ⟨hlen, hd⟩ := hd
  obtain ⟨x, y, rfl⟩ := List.length_eq_two.mp hlen
  intro s h
  rw [genderLabel_pair]
  exact ⟨_, gender_digits rd h.queue (hd x (by simp)) (hd y (by simp)),
    { h with queue := State.queue_popped (vs := [x, y]) h.queue, slot := h.slot_concat hrd _ }⟩

end Steps

end Sys2Proof.Machine
end

section
/-! PROOFS. RUN decodes every plaintext of the schema (R214 to R218): the five parts of the microprogram in order. -/

namespace Sys2Proof.Machine

/-! ### Micro-commands that complete (R214) -/

/-- From `P` these micro-commands complete one after another, in `Q`. -/
def Completes (ms : List Micro) (P Q : State → Prop) : Prop :=
  ∀ s, P s → ∃ t, Q t ∧ ∀ rest, runMicros (ms ++ rest) s = runMicros rest t

theorem Completes.nil {P : State → Prop} : Completes [] P P := fun s h => ⟨s, h, fun _ => rfl⟩

theorem Completes.append {ms ms' : List Micro} {P Q R : State → Prop} (h : Completes ms P Q) (h' : Completes ms' Q R) :
    Completes (ms ++ ms') P R := by
  intro s hs
  obtain ⟨t, ht, hrun⟩ := h s hs
  obtain ⟨u, hu, hrun'⟩ := h' t ht
  exact ⟨u, hu, fun rest => by rw [List.append_assoc, hrun, hrun']⟩

theorem Completes.cons {m : Micro} {ms : List Micro} {P Q R : State → Prop} (hm : m.body.Leads P Q)
    (hnext : ∀ t, Q t → Q t.nextMicro) (h : Completes ms Q R) : Completes (m :: ms) P R := by
  intro s hs
  obtain ⟨t, hbody, ht⟩ := hm s hs
  obtain ⟨u, hu, hrun⟩ := h t.nextMicro (hnext t ht)
  exact ⟨u, hu, fun rest => (runMicros_ok _ hbody).trans (hrun rest)⟩

/-- A micro-command on the way through the record. -/
theorem Completes.step {m : Micro} {ms : List Micro} {b : State} {bs : List Byte} {ns : List Nibble} {vs : List Slot}
    {P R : State → Prop} (hm : m.body.Leads P (b.Reading bs ns vs)) (h : Completes ms (b.Reading bs ns vs) R) :
    Completes (m :: ms) P R :=
  .cons hm (fun _ ht => ht.next) h

/-- The slots filled, written another way. -/
theorem Completes.slots_eq {ms : List Micro} {b : State} {bs : List Byte} {ns : List Nibble} {vs vs' : List Slot}
    {P : State → Prop} (h : Completes ms P (b.Reading bs ns vs)) (hvs : vs = vs') :
    Completes ms P (b.Reading bs ns vs') :=
  hvs ▸ h

/-! ### A plaintext, part by part (R215, R216, R218) -/

theorem Plaintext.bytes_eq (p : Plaintext) (c : Config) :
    p.bytes c = p.lead ++ c.marker :: p.skipped :: (p.codes.flatMap fieldBytes ++ (fieldBytes p.surname ++
      (fieldBytes p.initials ++ (p.permit.toList.flatMap fieldBytes ++ (fieldBytes p.idCountry ++
        (fieldBytes p.licCountry ++ (p.restrictions.flatMap fieldBytes ++ (fieldBytes p.licNumber ++ (p.idNumber ++
          ([p.idType] ++ (p.region ++ c.term :: (p.gapA ++ ([p.width] ++ (p.gapB ++ ([p.height] ++ p.tail))))))))))))))) := by
  delta Plaintext.bytes -- its equation lemma is slow to make
  simp only [List.append_assoc, List.cons_append, List.nil_append]

theorem Plaintext.nibbles_eq (p : Plaintext) :
    p.nibbles = p.issue.flatMap groupNibbles ++ (p.restr ++ (groupNibbles p.expiry ++ (p.issueNo ++
      (groupNibbles p.birth ++ (groupNibbles p.issued ++ (groupNibbles p.expires ++ (p.gender ++ p.leftover))))))) := by
  simp only [Plaintext.nibbles, List.append_assoc]

/-- What NQLOAD leaves before the width: with TERM_CONSUMED = 0 the terminator is the first byte of it (R176). -/
def Plaintext.beforeWidth (p : Plaintext) (c : Config) : List Byte :=
  if c.termConsumed = true then p.gapA else c.term :: p.gapA

/-- S0 to S26 of a plaintext (R216). -/
def Plaintext.recordSlots (p : Plaintext) : List Slot :=
  packed (keptStrings p.codes) 3 ++ [some p.surname.1, some p.initials.1, p.permit.map Prod.fst, some p.idCountry.1,
    some p.licCountry.1] ++ packed (keptStrings p.restrictions) 3 ++ [some p.licNumber.1] ++
    [some p.idNumber, some (twoDigits p.idType)] ++
    (packed (presentDates p.issue) 4 ++ [some (p.restr.map digitByte), groupSlot p.expiry,
      some (p.issueNo.map digitByte), groupSlot p.birth, groupSlot p.issued, groupSlot p.expires,
      some [genderLabel p.gender]]) ++ [some [p.width], some [p.height]]

theorem Plaintext.length_recordSlots (p : Plaintext) : p.recordSlots.length = 27 := by simp [Plaintext.recordSlots]

theorem Plaintext.slots_eq (p : Plaintext) : p.slots = p.recordSlots ++ List.replicate 5 none := by
  simp only [Plaintext.slots, Plaintext.recordSlots, presentDates, List.append_assoc, List.cons_append, List.nil_append]

/-! ### The parts of the microprogram (R215) -/

section Parts

variable {b : State} {p : Plaintext} (hp : p.Fits b.config)
include hp

theorem completes_strings (bs : List Byte) (ns : List Nibble) :
    Completes
      [⟨.rdstrs 0#5 3#16, rdstrs 0 3⟩, ⟨.rdstr 3#5, rdstr 3⟩, ⟨.rdstr 4#5, rdstr 4⟩, ⟨.rdopt 5#5, rdopt 5⟩,
        ⟨.rdstr 6#5, rdstr 6⟩, ⟨.rdstr 7#5, rdstr 7⟩, ⟨.rdstrs 8#5 3#16, rdstrs 8 3⟩, ⟨.rdstr 11#5, rdstr 11⟩]
      (b.Reading (p.codes.flatMap fieldBytes ++ (fieldBytes p.surname ++ (fieldBytes p.initials ++
        (p.permit.toList.flatMap fieldBytes ++ (fieldBytes p.idCountry ++ (fieldBytes p.licCountry ++
          (p.restrictions.flatMap fieldBytes ++ (fieldBytes p.licNumber ++ bs)))))))) ns [])
      (b.Reading bs ns (packed (keptStrings p.codes) 3 ++ [some p.surname.1, some p.initials.1, p.permit.map Prod.fst,
        some p.idCountry.1, some p.licCountry.1] ++ packed (keptStrings p.restrictions) 3 ++ [some p.licNumber.1])) :=
  Completes.slots_eq (
    .step (rdstrs_leads hp.codes rfl (by decide)) <|
    .step (rdstr_leads (rd := 3#5) hp.surname (by simp)) <|
    .cons (rdstr_latches (rd := 4#5) hp.initials (by simp)) (fun _ ⟨ht, hlatch⟩ => ⟨ht.next, hlatch⟩) <|
    .step (rdopt_leads (rd := 5#5) hp.permit (by simp)) <|
    .step (rdstr_leads (rd := 6#5) hp.idCountry (by simp)) <|
    .step (rdstr_leads (rd := 7#5) hp.licCountry (by simp)) <|
    .step (rdstrs_leads hp.restrictions (by simp) (by decide)) <|
    .step (rdstr_leads (rd := 11#5) hp.licNumber (by simp)) .nil) (by simp)

theorem length_beforeWidth : (p.beforeWidth b.config).length = 3 := by
  have hgap := hp.gapA
  unfold Plaintext.beforeWidth
  split_ifs at hgap ⊢
  · exact hgap
  · exact congrArg Nat.succ hgap

theorem completes_raws (bs : List Byte) {ns : List Nibble} {vs : List Slot} (hvs : vs.length = 12) :
    Completes [⟨.rdraw 12#5 13#16, rdraw 12 13⟩, ⟨.rddec2 13#5, rddec2 13⟩, ⟨.nqload, nqload⟩]
      (b.Reading (p.idNumber ++ ([p.idType] ++ (p.region ++ b.config.term :: (p.gapA ++ bs)))) ns vs)
      (b.Reading (p.beforeWidth b.config ++ bs) p.nibbles (vs ++ [some p.idNumber, some (twoDigits p.idType)])) := by
  obtain ⟨hterm, hnibbles⟩ := hp.region
  have hload : p.beforeWidth b.config ++ bs =
      if b.config.termConsumed = true then p.gapA ++ bs else b.config.term :: (p.gapA ++ bs) := by
    unfold Plaintext.beforeWidth
    split <;> rfl
  rw [hload, ← hnibbles]
  exact Completes.slots_eq (
    .step (rdraw_leads (rd := 12#5) hp.idNumber (by decide) hvs) <|
    .step (rddec2_leads (rd := 13#5) hp.idType (by simp [hvs])) <|
    .step (nqload_leads hterm) .nil) (by simp)

theorem completes_nibbles (bs : List Byte) {vs : List Slot} (hvs : vs.length = 14) :
    Completes
      [⟨.datel 14#5 4#16, datel 14 4⟩, ⟨.code 18#5 2#16, code 18 2⟩, ⟨.dateg 19#5, dateg 19⟩,
        ⟨.code 20#5 2#16, code 20 2⟩, ⟨.dateg 21#5, dateg 21⟩, ⟨.dateg 22#5, dateg 22⟩, ⟨.dateg 23#5, dateg 23⟩,
        ⟨.gender 24#5, gender 24⟩]
      (b.Reading bs p.nibbles vs)
      (b.Reading bs p.leftover (vs ++ (packed (presentDates p.issue) 4 ++ [some (p.restr.map digitByte),
        groupSlot p.expiry, some (p.issueNo.map digitByte), groupSlot p.birth, groupSlot p.issued, groupSlot p.expires,
        some [genderLabel p.gender]]))) := by
  obtain ⟨hbirth, hissued, hexpires⟩ := hp.dates
  rw [p.nibbles_eq]
  exact Completes.slots_eq (
    .step (datel_leads hp.issue hvs (by decide)) <|
    .step (code_leads (rd := 18#5) hp.restr (by simp [hvs])) <|
    .step (dateg_leads (rd := 19#5) hp.expiry (by simp [hvs])) <|
    .step (code_leads (rd := 20#5) hp.issueNo (by simp [hvs])) <|
    .step (dateg_leads (rd := 21#5) hbirth (by simp [hvs])) <|
    .step (dateg_leads (rd := 22#5) hissued (by simp [hvs])) <|
    .step (dateg_leads (rd := 23#5) hexpires (by simp [hvs])) <|
    .step (gender_leads (rd := 24#5) hp.gender (by simp [hvs])) .nil) (by simp)

theorem completes_image {ns : List Nibble} {vs : List Slot} (hvs : vs.length = 25) :
    Completes
      [⟨.skip 3#16, skip 3⟩, ⟨.rdraw 25#5 1#16, rdraw 25 1⟩, ⟨.skip 2#16, skip 2⟩, ⟨.rdraw 26#5 1#16, rdraw 26 1⟩]
      (b.Reading (p.beforeWidth b.config ++ ([p.width] ++ (p.gapB ++ ([p.height] ++ p.tail)))) ns vs)
      (b.Reading p.tail ns (vs ++ [some [p.width], some [p.height]])) :=
  Completes.slots_eq (
    .step (skip_leads (length_beforeWidth hp) (by decide)) <|
    .step (rdraw_leads (rd := 25#5) rfl (by decide) hvs) <|
    .step (skip_leads hp.gapB (by decide)) <|
    .step (rdraw_leads (rd := 26#5) rfl (by decide) (by simp [hvs])) .nil) (by simp)

end Parts

/-- From SEEK on the microprogram reads a whole plaintext that stands at the start of the buffer. -/
theorem completes_record {b : State} {p : Plaintext} {c : Config} (hc : b.config = c) (hp : p.Fits c) :
    Completes (microprogram.drop 3) (fun s => b.Reading (p.bytes c) [] [] s ∧ s.cur = 0#10)
      (b.Reading p.tail p.leftover p.recordSlots) := by
  subst hc
  rw [p.bytes_eq]
  exact Completes.step (m := ⟨.seek, seek⟩) (seek_leads (x := p.skipped) hp.lead) <|
    (completes_strings hp _ []).append <| (completes_raws hp _ (by simp)).append <|
    (completes_nibbles hp _ (by simp)).append <| completes_image hp (by simp)

/-! ### The version, and the six blocks (R132, R149) -/

theorem verdet_version {s : State} {v : Version} (hlen : s.rawLen.toNat = 720)
    (hv : versionOf s.config (s.raw.readRange 0 4) = some v) : verdet s = .ok () { s with ver := v } := by
  unfold versionOf at hv
  split_ifs at hv with h1 h2
  · cases hv
    exact verdet_v1 hlen h1
  · cases hv
    exact verdet_v2 hlen h2

/-- The state SEEK finds in RUN: the version detected, the buffer joined. -/
def State.assembled (s : State) (v : Version) (trail : KeyParams) (bs : List Byte) : State :=
  { s.clearBuffer.joined 5 trail bs with ver := v, upc := s.upc + 1#5 + 1#5 + 1#5 }

/-- The state with the version detected and the length of the buffer, which stand to the end of RUN. -/
def State.detected (s : State) (v : Version) (n : Nat) : State := { s with ver := v, dlen := BitVec.ofNat 10 n }

section Start

variable {s : State} {v : Version} {large trail : KeyParams}

theorem runMicros_start {bs : List Byte} (hlen : s.rawLen.toNat = 720)
    (hv : versionOf s.config (s.raw.readRange 0 4) = some v) (hlarge : keyOf s.config v .large = some large)
    (htrail : keyOf s.config v .trail = some trail) (hbs : plainBuffer s.config s.raw large trail = bs) :
    runMicros microprogram s = runMicros (microprogram.drop 3) (s.assembled v trail bs) := by
  subst hbs
  exact calc runMicros microprogram s
    _ = runMicros (microprogram.drop 1) s.nextMicro := runMicros_ok _ (lengthCheck_ok hlen)
    _ = runMicros (microprogram.drop 2) ({ s.nextMicro with ver := v } : State).nextMicro :=
      runMicros_ok _ (verdet_version (s := s.nextMicro) hlen hv)
    _ = _ :=
      runMicros_ok _ (assemble_ok (s := ({ s.nextMicro with ver := v } : State).nextMicro) hlen hlarge htrail)

/-- The joined buffer is still to be read, whole, and nothing is in the queue or the slots. -/
theorem reading_assembled {bs : List Byte} (hdbuf : s.dbuf.wf = true) (hnq : s.nq.wf = true) (hslots : s.slots = noSlots)
    (hbs : bs.length ≤ 768) : (s.detected v bs.length).Reading bs [] [] (s.assembled v trail bs) where
  outer := rfl
  ver := rfl
  dlen := congrArg (BitVec.ofNat 10) (Nat.zero_add bs.length)
  err := rfl
  einfo := rfl
  nqWf := hnq
  remaining := by
    have hdlen : (s.assembled v trail bs).dlen.toNat = bs.length :=
      (State.toNat_joined_dlen (s := s.clearBuffer) (by simpa using hbs) 5 trail).trans (Nat.zero_add _)
    rw [State.remaining, hdlen]
    exact Memory.readRange_writeRange hdbuf 0 bs
  queue := rfl
  slot := State.slot_of_noSlots hslots

/-- From a cleared call state the loop joins the buffer and reads it whole. -/
theorem runMicros_record {p : Plaintext} (hlen : s.rawLen.toNat = 720)
    (hv : versionOf s.config (s.raw.readRange 0 4) = some v) (hlarge : keyOf s.config v .large = some large)
    (htrail : keyOf s.config v .trail = some trail)
    (hbuffer : plainBuffer s.config s.raw large trail = p.bytes s.config) (hp : p.Fits s.config)
    (hdbuf : s.dbuf.wf = true) (hnq : s.nq.wf = true) (hslots : s.slots = noSlots)
    (hmax : (p.bytes s.config).length ≤ 768) :
    ∃ t, (s.detected v (p.bytes s.config).length).Reading p.tail p.leftover p.recordSlots t ∧
      runMicros microprogram s = t.finishRun := by
  have hreading := reading_assembled (v := v) (trail := trail) hdbuf hnq hslots hmax
  obtain ⟨t, ht, hrun⟩ := completes_record (b := s.detected v (p.bytes s.config).length) rfl hp _ ⟨hreading, rfl⟩
  have hend := hrun []
  rw [List.append_nil] at hend
  exact ⟨t, ht, (runMicros_start hlen hv hlarge htrail hbuffer).trans hend⟩

end Start

/-- Settles O47: RUN joins the plaintext and reads it part by part (`runMicros_record`). -/
theorem runDecodesPlaintext : Obligations.RunDecodesPlaintext := by
  intro s v large trail p hs hlen hdbuf hnq hv hlarge htrail hbuffer hp
  have hmax := length_plainBuffer_le s.config s.raw (keyOf_modulus hlarge)
    (byteLen_blockPlain_le s.config s.raw 5 (keyOf_modulus htrail))
  rw [hbuffer] at hmax
  obtain ⟨t, ht, hrun⟩ := runMicros_record (s := (s.accepted.setBusy true).clearCall) hlen hv hlarge htrail hbuffer hp
    hdbuf hnq rfl hmax
  obtain ⟨-, -, -, -, hraw, hrawLen, hssel⟩ := State.outer_eq_iff.mp ht.outer
  have hslots : t.slots.toList = p.slots := by
    have hfilled := toList_slots_eq (p.length_recordSlots ▸ by decide) ht.slot
    rwa [p.length_recordSlots, ← p.slots_eq] at hfilled
  have hdlen : t.dlen.toNat = (p.bytes s.config).length := by
    rw [ht.dlen]
    exact (BitVec.toNat_ofNat _ _).trans (Nat.mod_eq_of_lt (hmax.trans_lt (by decide)))
  exact ⟨_, exec_run_ready hs hrun, hslots, rfl, rfl, ht.err.trans hs.2, ht.einfo, rfl, ht.ver, hdlen, hraw, hrawLen,
    hssel⟩

end Sys2Proof.Machine
end

section
/-! PROOFS. The stop (R36, R236) and the error state (R238). -/

namespace Sys2Proof.Machine

/-! ### The stop (R36, R236) -/

/-- The fields of EINFO that are not 0 (R36). -/
theorem packEinfo_fields (eop : Byte) (upc : BitVec 5) (cur : BitVec 10) (b : Bool) :
    (packEinfo eop upc cur b).extractLsb' 0 8 = eop ∧ (packEinfo eop upc cur b).extractLsb' 8 5 = upc ∧
      (packEinfo eop upc cur b).extractLsb' 16 10 = cur ∧ (packEinfo eop upc cur b).getLsbD 31 = b := by
  refine ⟨?_, ?_, ?_, ?_⟩
  case refine_4 => simp only [packEinfo, BitVec.getLsbD_append]; simp
  all_goals
    apply BitVec.eq_of_getLsbD_eq
    intro k hk
    simp only [packEinfo, BitVec.getLsbD_extractLsb', BitVec.getLsbD_append]
    interval_cases k <;> simp

/-- Settles O10: the stop writes what `State.stop` lists, and `packEinfo` puts each field in its bits. -/
theorem stopEffect : Obligations.StopEffect := by
  intro s k eop inRun
  obtain ⟨hop, hupc, hcur, hrun⟩ := packEinfo_fields eop s.upc s.cur inRun
  obtain ⟨hlow, hhigh⟩ := packEinfo_zero_bits eop s.upc s.cur inRun
  exact ⟨rfl, hop, hupc, hcur, hrun, hlow, hhigh⟩

/-! ### The error state (R238) -/

theorem exec_sticky {i : Instr} {s : State} (herr : s.err ≠ none) (hclr : i ≠ .clr) : exec i s = .next s := by
  rw [exec_eq_accept, accept_sticky herr hclr]

/-- A word that selects no row is ignored like a command (R103 steps 1 and 2). -/
theorem acceptNoRow_sticky (w : Word) {s : State} (herr : s.err ≠ none) : acceptNoRow w s = .next s := by
  rw [acceptNoRow, if_pos herr, ite_self]

theorem writeCommand_sticky {w : Word} {s : State} (herr : s.err ≠ none) (hclr : w ≠ 0x01000000#32) :
    writeCommand w s = .next s := by
  cases hdecode : decode w with
  | ok i =>
    rw [writeCommand_of_decode hdecode]
    refine exec_sticky herr ?_
    rintro rfl
    exact hclr (eq_of_decode_clr hdecode)
  | error e =>
    rw [writeCommand, hdecode]
    exact acceptNoRow_sticky w herr

/-- No register but CMD gives a write an effect on ERR. -/
theorem writeRegister_err {off : Nat} {d : Word} {s t : State} (hoff : off ≠ 0)
    (h : writeRegister off d s = some (.next t)) : t.err = s.err := by
  rcases writeRegister_cases h with ⟨hcmd, -⟩ | rfl | ⟨sel, x, n, e, rfl⟩
  · exact absurd hcmd hoff
  · rfl
  · rfl

/-- Settles O9: acceptance lets only CLR through (`accept_sticky`); the rest of the port does not look at ERR. -/
theorem errorStateIgnoresCommands : Obligations.ErrorStateIgnoresCommands := fun _ herr hbusy hline =>
  ⟨fun _ hclr => writeCommand_sticky herr hclr, fun _ hclr => exec_sticky herr hclr,
    fun _ _ _ hoff h => ⟨hostWrite_accepted hline hbusy h, writeRegister_err hoff h⟩,
    fun _ _ h => hostRead_accepted hline hbusy h⟩

end Sys2Proof.Machine
end

section
/-! PROOFS. UPC belongs to RUN alone (R34): no body reads or writes it, so a body does the same under every UPC. -/

namespace Sys2Proof.Machine

/-- UPC <- c (R34). -/
def State.setUpc (s : State) (c : BitVec 5) : State := { s with upc := c }

/-- The same end, with another UPC in its state. -/
def Res.setUpc {α : Type} (r : Res α) (c : BitVec 5) : Res α :=
  match r with
  | .ok a s => .ok a (s.setUpc c)
  | .raise k s => .raise k (s.setUpc c)

/-- The pseudocode ends alike under every UPC. -/
def UpcBlind {α : Type} (f : State → Res α) : Prop := ∀ s c, f (s.setUpc c) = (f s).setUpc c

theorem UpcBlind.ok {α : Type} (a : α) : UpcBlind (Res.ok a) := fun _ _ => rfl

theorem UpcBlind.raise {α : Type} (k : ErrorKind) : UpcBlind (Res.raise (α := α) k) := fun _ _ => rfl

theorem UpcBlind.bind {α β : Type} {f : State → Res α} {g : α → State → Res β} (hf : UpcBlind f)
    (hg : ∀ a, UpcBlind (g a)) : UpcBlind fun s => (f s).bind g := by
  intro s c
  dsimp only
  rw [hf s c]
  cases f s with
  | ok a t => exact hg a t c
  | raise k t => rfl

/-- The test of a branch is one that UPC does not touch. -/
theorem UpcBlind.ite {α : Type} {p : State → Prop} [DecidablePred p] {f g : State → Res α}
    (hp : ∀ s c, p (s.setUpc c) ↔ p s) (hf : UpcBlind f) (hg : UpcBlind g) :
    UpcBlind fun s => if p s then f s else g s := by
  intro s c
  simp only [hp, hf s c, hg s c, apply_ite (Res.setUpc · c)]

/-! ### The version, key and modular-exponentiation commands -/

theorem lengthCheck_upcBlind : UpcBlind lengthCheck :=
  .ite (fun _ _ => .rfl) (.ok ()) (.raise _)

theorem modexp_upcBlind : UpcBlind modexp :=
  .ite (fun _ _ => .rfl) (.raise _) fun _ _ => rfl

theorem append_upcBlind : UpcBlind append :=
  .ite (fun _ _ => .rfl) (.raise _) fun _ _ => rfl

theorem verdet_upcBlind : UpcBlind verdet :=
  lengthCheck_upcBlind.bind fun _ => .ite (fun _ _ => .rfl) (fun _ _ => rfl) <|
    .ite (fun _ _ => .rfl) (fun _ _ => rfl) (.raise _)

theorem loadKey_upcBlind (cls : BlockClass) : UpcBlind (loadKey cls) := by
  intro s c
  dsimp only [loadKey, State.setUpc]
  split <;> rfl

theorem loadBlock_upcBlind (k : Nat) : UpcBlind (loadBlock k) :=
  lengthCheck_upcBlind.bind fun _ _ _ => rfl

theorem decryptBlock_upcBlind (k : Nat) : UpcBlind (decryptBlock k) :=
  (loadBlock_upcBlind k).bind fun _ => (loadKey_upcBlind _).bind fun _ => modexp_upcBlind.bind fun _ => append_upcBlind

theorem decryptBlocks_upcBlind (ks : List Nat) : UpcBlind (decryptBlocks ks) := by
  induction ks with
  | nil => exact .ok ()
  | cons k ks ih => exact (decryptBlock_upcBlind k).bind fun _ => ih

theorem assemble_upcBlind : UpcBlind assemble := fun s c =>
  decryptBlocks_upcBlind _ s.clearBuffer c

/-! ### The field scanner -/

theorem seek_upcBlind : UpcBlind seek := by
  intro s c
  dsimp only [seek, State.setUpc]
  split
  · rfl
  · split <;> rfl

theorem scanString_setUpc (s : State) (c : BitVec 5) :
    scanString (s.setUpc c) = { scanString s with state := (scanString s).state.setUpc c } := by
  dsimp only [scanString, State.setUpc, State.remaining]
  split <;> rfl

theorem readStrings_setUpc (rd n k : Nat) (s : State) (c : BitVec 5) :
    readStrings rd n k (s.setUpc c) = ((readStrings rd n k s).1, (readStrings rd n k s).2.setUpc c) := by
  induction n generalizing k s with
  | zero => rfl
  | succ n ih =>
    simp only [readStrings, scanString_setUpc]
    by_cases hacc : (scanString s).acc = [] <;> by_cases hend : (scanString s).ended = true <;>
      simp only [hacc, hend, if_true, if_false, Bool.false_eq_true]
    · exact ih k _
    · rfl
    · exact ih (k + 1) ((scanString s).state.setSlot (rd + k) (some (scanString s).acc))

theorem State.clearSlots_setUpc (s : State) (c : BitVec 5) (rd n : Nat) :
    (s.setUpc c).clearSlots rd n = (s.clearSlots rd n).setUpc c := by
  induction n generalizing s rd with
  | zero => rfl
  | succ n ih => exact ih (s.setSlot rd none) (rd + 1)

theorem rdstrs_upcBlind (rd count : Nat) : UpcBlind (rdstrs rd count) := by
  intro s c
  simp only [rdstrs, State.clearSlots_setUpc, readStrings_setUpc]
  rfl

theorem rdstr_upcBlind (rd : Nat) : UpcBlind (rdstr rd) := by
  intro s c
  simp only [rdstr, scanString_setUpc]
  split <;> rfl

theorem rdopt_upcBlind (rd : Nat) : UpcBlind (rdopt rd) :=
  .ite (fun _ _ => .rfl) (rdstr_upcBlind rd) fun _ _ => rfl

theorem rdraw_upcBlind (rd n : Nat) : UpcBlind (rdraw rd n) :=
  .ite (fun _ _ => .rfl) (.raise _) fun _ _ => rfl

theorem rddec2_upcBlind (rd : Nat) : UpcBlind (rddec2 rd) :=
  .ite (fun _ _ => .rfl) (.ite (fun _ _ => .rfl) (fun _ _ => rfl) fun _ _ => rfl) (.raise _)

theorem skip_upcBlind (n : Nat) : UpcBlind (skip n) :=
  .ite (fun _ _ => .rfl) (.raise _) fun _ _ => rfl

theorem nqload_upcBlind : UpcBlind nqload := by
  refine .ite (fun _ _ => .rfl) (fun s c => ?_) fun _ _ => rfl
  dsimp only [State.setUpc, Res.setUpc]
  split <;> rfl

/-! ### The nibble decoder -/

theorem pop_upcBlind : UpcBlind pop :=
  .ite (fun _ _ => .rfl) (fun _ _ => rfl) (.raise _)

theorem popMany_upcBlind (n : Nat) : UpcBlind (popMany n) := by
  induction n with
  | zero => exact .ok []
  | succ n ih => exact pop_upcBlind.bind fun v => ih.bind fun vs => .ok (v :: vs)

theorem dateGroup_upcBlind : UpcBlind dateGroup :=
  pop_upcBlind.bind fun d => .ite (fun _ _ => .rfl) (.ok none) <| (popMany_upcBlind 7).bind fun ds => by
    cases digitChars (d :: ds) with
    | none => exact .raise _
    | some cs => exact .ok _

theorem dateg_upcBlind (rd : Nat) : UpcBlind (dateg rd) :=
  dateGroup_upcBlind.bind fun _ _ _ => rfl

theorem readDates_upcBlind (rd n k : Nat) : UpcBlind (readDates rd n k) := by
  induction n generalizing k with
  | zero => exact .ok k
  | succ n ih =>
    refine dateGroup_upcBlind.bind fun g => ?_
    cases g with
    | none => exact ih k
    | some d => exact fun s => ih (k + 1) (s.setSlot (rd + k) (some d))

theorem datel_upcBlind (rd count : Nat) : UpcBlind (datel rd count) := by
  intro s c
  unfold datel
  rw [State.clearSlots_setUpc]
  exact (readDates_upcBlind rd count 0).bind (fun _ _ _ => rfl) (s.clearSlots rd count) c

theorem code_upcBlind (rd width : Nat) : UpcBlind (code rd width) :=
  (popMany_upcBlind width).bind fun vs => by
    cases digitChars vs with
    | none => exact .raise _
    | some cs => exact fun _ _ => rfl

theorem gender_upcBlind (rd : Nat) : UpcBlind (gender rd) :=
  (popMany_upcBlind 2).bind fun vs => by
    cases digitChars vs with
    | none => exact .raise _
    | some cs => exact fun _ _ => rfl

/-! ### Every body -/

theorem bodyOf_upcBlind (i : Instr) : UpcBlind (bodyOf i) := by
  cases i with
  | nop | clr | run => exact .ok ()
  | chklen => exact lengthCheck_upcBlind
  | verdet => exact verdet_upcBlind
  | ldkey cls => exact loadKey_upcBlind _
  | ldblk k => exact loadBlock_upcBlind _
  | modexp => exact modexp_upcBlind
  | append => exact append_upcBlind
  | decblk k => exact decryptBlock_upcBlind _
  | assemble => exact assemble_upcBlind
  | seek => exact seek_upcBlind
  | rdstrs rd count => exact rdstrs_upcBlind _ _
  | rdstr rd => exact rdstr_upcBlind _
  | rdopt rd => exact rdopt_upcBlind _
  | rdraw rd n => exact rdraw_upcBlind _ _
  | rddec2 rd => exact rddec2_upcBlind _
  | skip n => exact skip_upcBlind _
  | nqload => exact nqload_upcBlind
  | dateg rd => exact dateg_upcBlind _
  | datel rd count => exact datel_upcBlind _ _
  | code rd width => exact code_upcBlind _ _
  | gender rd => exact gender_upcBlind _

end Sys2Proof.Machine
end

section
/-! PROOFS. RUN against its commands issued one by one (R249): RUN's state between two micro-commands is the stepped one with
BUSY and UPC set, and it stops where the first command stops. -/

namespace Sys2Proof.Machine

/-! ### Commands issued one by one -/

theorem execSeq_cons {i : Instr} {s t : State} (is : List Instr) (h : exec i s = .next t) :
    execSeq (i :: is) s = execSeq is t := by
  rw [execSeq, h]

/-- After a stop nothing happens until CLR (R238). -/
theorem execSeq_sticky {is : List Instr} {s : State} (herr : s.err ≠ none) (hclr : .clr ∉ is) : execSeq is s = s := by
  induction is with
  | nil => rfl
  | cons i is ih =>
    rw [execSeq_cons is (exec_sticky herr (List.ne_of_not_mem_cons hclr).symm), ih (List.not_mem_of_not_mem_cons hclr)]

/-! ### One micro-command, issued and inside RUN -/

/-- What a micro-command is run on: RECVALID 0 and BUSY 1 as after acceptance, and RUN's UPC. -/
def State.running (s : State) (c : BitVec 5) : State := (s.accepted.setBusy true).setUpc c

/-- A body that ran on it left RECVALID and BUSY so. -/
theorem State.running_setBusy {t : State} (hrec : t.recValid = false) (hbusy : t.busy = true) (c : BitVec 5) :
    (t.setBusy false).running c = t.setUpc c := by
  simp only [State.running, State.accepted, State.setBusy, State.setUpc, hrec, hbusy]

/-- No micro-command is NOP, CLR or RUN (R215). -/
theorem Micro.instr_ne {m : Micro} (hm : m ∈ microprogram) : m.instr ≠ .nop ∧ m.instr ≠ .clr ∧ m.instr ≠ .run := by
  have hall : ∀ i ∈ microCommands, i ≠ .nop ∧ i ≠ .clr ∧ i ≠ .run := by decide
  exact hall m.instr (List.mem_map_of_mem hm)

/-- A micro-command completes both ways in one state, or both ways raises the same error in one state. -/
theorem Micro.exec_cases {m : Micro} (hm : m ∈ microprogram) {s : State} (hs : s.Ready) :
    (∃ t, exec m.instr s = .next t ∧ t.Ready ∧ ∀ c, m.body (s.running c) = .ok () (t.running c)) ∨
      ∃ (k : ErrorKind) (t : State), exec m.instr s = .next (t.stop k m.instr.opcode false) ∧
        ∀ c, m.body (s.running c) = .raise k (t.setUpc c) := by
  obtain ⟨hnop, hclr, hrun⟩ := Micro.instr_ne hm
  obtain ⟨hbody, hw⟩ := microprogram_body m hm
  have hblind : ∀ c, m.body (s.running c) = (m.body (s.accepted.setBusy true)).setUpc c :=
    hbody ▸ bodyOf_upcBlind m.instr (s.accepted.setBusy true)
  have hcontrol := State.control_eq_iff.mp (Micro.control hm (s.accepted.setBusy true))
  rw [exec_eq_command s hnop hclr hrun, ← hbody]
  cases hb : m.body (s.accepted.setBusy true) with
  | raise k t => exact .inr ⟨k, t, command_raise hs hw hnop hb, fun c => by rw [hblind, hb]; rfl⟩
  | ok a t =>
    rw [hb] at hcontrol
    obtain ⟨-, herr, -, hrec, hbusy⟩ := hcontrol
    refine .inl ⟨t.setBusy false, command_ok hs hw hnop hb, ⟨rfl, herr.trans hs.2⟩, fun c => ?_⟩
    rw [hblind, hb]
    exact congrArg (Res.ok ()) (State.running_setBusy hrec hbusy c).symm

/-! ### The loop -/

/-- RUN's end where the commands one by one stop in `t`, entry `i` under UPC `c` being the first that stops (R36). -/
def State.stoppedRun (t : State) (i : Instr) (c : BitVec 5) : State :=
  { t with upc := c, einfo := packEinfo i.opcode c t.cur true }

/-- The loop completes with the commands, or stops with the first of them that stops. -/
theorem runMicros_eq_execSeq {ms : List Micro} (hms : ∀ m ∈ ms, m ∈ microprogram) {s : State} (hs : s.Ready)
    (c : BitVec 5) :
    (execSeq (ms.map Micro.instr) s).err = none ∧
        (runMicros ms (s.running c)).setBusy false = (execSeq (ms.map Micro.instr) s).finishRun ∨
      (execSeq (ms.map Micro.instr) s).err ≠ none ∧
        ∃ n i, (ms.map Micro.instr)[n]? = some i ∧ (execSeq ((ms.map Micro.instr).take n) s).err = none ∧
          (execSeq ((ms.map Micro.instr).take (n + 1)) s).err ≠ none ∧
          (runMicros ms (s.running c)).setBusy false =
            (execSeq (ms.map Micro.instr) s).stoppedRun i (c + BitVec.ofNat 5 n) := by
  induction ms generalizing s c with
  | nil => exact .inl ⟨hs.2, State.setBusy_of_busy_eq (s := s.finishRun) hs.1⟩
  | cons m ms ih =>
    obtain ⟨hm, hms⟩ := List.forall_mem_cons.mp hms
    rcases Micro.exec_cases hm hs with ⟨t, hexec, ht, hbody⟩ | ⟨k, t, hexec, hbody⟩
    · have hloop : runMicros (m :: ms) (s.running c) = runMicros ms (t.running (c + 1#5)) := runMicros_ok ms (hbody c)
      simp only [List.map_cons, execSeq_cons _ hexec, hloop]
      rcases ih hms ht (c + 1#5) with hend | ⟨hend, n, i, hget, hbefore, hat, hrun⟩
      · exact .inl hend
      · refine .inr ⟨hend, n + 1, i, hget, ?_, ?_, ?_⟩
        · rwa [List.take_succ_cons, execSeq_cons _ hexec]
        · rwa [List.take_succ_cons, execSeq_cons _ hexec]
        · rw [hrun, BitVec.add_assoc, ← BitVec.ofNat_add, Nat.add_comm 1 n]
    · have hclr : Instr.clr ∉ ms.map Micro.instr := by
        intro hmem
        obtain ⟨m', hm', hi⟩ := List.mem_map.mp hmem
        obtain ⟨-, hne, -⟩ := Micro.instr_ne (hms m' hm')
        exact hne hi
      have hend : execSeq (m.instr :: ms.map Micro.instr) s = t.stop k m.instr.opcode false :=
        (execSeq_cons _ hexec).trans (execSeq_sticky nofun hclr)
      rw [List.map_cons, hend, runMicros_raise ms (hbody c)]
      refine .inr ⟨nofun, 0, m.instr, rfl, hs.2, ?_, ?_⟩
      · rw [List.take_succ_cons, execSeq_cons _ hexec]
        exact nofun
      · rw [BitVec.add_zero]
        rfl

/-- Settles O49: the loop from entry 0 (`runMicros_eq_execSeq`), where UPC is 0. -/
theorem runIsSteppedMicroprogram : Obligations.RunIsSteppedMicroprogram := by
  intro s hs
  rw [exec_run_ready hs rfl]
  rcases runMicros_eq_execSeq (fun _ => id) (s := s.clearCall) hs 0#5 with
    ⟨hnone, hrun⟩ | ⟨hend, n, i, hget, hbefore, hat, hrun⟩
  · exact ⟨fun _ => congrArg _ hrun, (absurd hnone ·)⟩
  · rw [BitVec.zero_add] at hrun
    obtain ⟨hn, -⟩ := List.getElem?_eq_some_iff.mp hget
    exact ⟨(absurd · hend), fun _ => ⟨n, i, hn, hget, hbefore, hat, congrArg _ hrun⟩⟩

end Sys2Proof.Machine
end

section
/-! PROOFS. The reset input (R260): while it is asserted the port is closed, and its release gives the reset values. -/

namespace Sys2Proof.Machine

/-- Neither BUSY nor the STATUS read that BUSY lets through (R84) opens the port while reset is asserted. -/
theorem State.portOpen_asserted {s : State} (hline : s.resetLine = true) (isRead : Bool) (off : Nat) :
    s.portOpen isRead off = false := by
  simp [State.portOpen, hline]

/-- The release undoes the assertion and forgets the last answer; the parameters and the coming host actions stand. -/
theorem State.leaveReset_asserted {s : State} (hline : s.resetLine = true) :
    s.leaveReset = { State.reset with config := s.config, pending := s.pending } :=
  if_pos hline

/-- Settles O12: each host action under reset, an access by the closed port (`State.portOpen_asserted`). -/
theorem resetInput : Obligations.ResetInput := by
  refine fun s rest => ⟨step_eq_hostAction, fun hline wd off d => ⟨fun hp => ?_, fun hp => ?_⟩, fun hline hp => ?_⟩
  · rw [step_eq_hostAction hp]
    exact hostWrite_rejected (.inr (.inl (State.portOpen_asserted hline false _)))
  · rw [step_eq_hostAction hp]
    exact hostRead_rejected (.inr (.inl (State.portOpen_asserted hline true _)))
  · rw [step_eq_hostAction hp]
    exact congrArg Host.Outcome.next (State.leaveReset_asserted (s := { s with pending := rest }) hline)

end Sys2Proof.Machine
end
